-- ==== Sys2Proof/Word.lean ====
section
/-!
DEFINITION. The widths of the machine's values (00_scope.md rules R4, R6): every value is an unsigned number of a
stated width, so each is a bit vector and none is ever read as signed.
-/

namespace Sys2Proof

/-- 8 bits: a V register, DT, ST, a memory byte, an immediate `kk` (R4 REG_BITS). -/
abbrev Byte := BitVec 8

/-- 16 bits: PC, I, a stack entry, an instruction word (R4 PC_BITS, I_BITS, STACK_ENTRY_BITS, INSN_BITS). -/
abbrev Word := BitVec 16

/-- The 12-bit address field `nnn` of an instruction (R61). -/
abbrev Addr12 := BitVec 12

/-- A 4-bit count or key number (R61 `n`, R34 key 0..15). -/
abbrev Nibble := BitVec 4

/-- The index of a V register: a 4-bit field, so every index is in range by construction (R20). -/
abbrev Reg := BitVec 4

/-- The register that doubles as the flag: `V[15]` (R21). -/
abbrev VF : Reg := 15#4

end Sys2Proof
end

