-- ==== Sys2Proof/Syntax.lean ====
section
/-!
DEFINITION. The instruction set as syntax: one constructor per row of spec/opcode_table.json, in the table's order
(30_encoding.md rules R63, R65, R72), each carrying exactly the fields its format has. `Shr` and `Shl` carry `y`
although they do not use it (R63: "preserve the two-operand signature for encoding fidelity").
-/

namespace Sys2Proof

/-- The 34 instructions of the opcode map (R65). The operand order is that of R72: x, y, n or x, kk or nnn. -/
inductive Instr where
  /-- `00E0` clear the display (R120). -/
  | cls
  /-- `00EE` return from subroutine (R80). -/
  | ret
  /-- `1nnn` jump (R81). -/
  | jp (nnn : Addr12)
  /-- `2nnn` call subroutine (R82). -/
  | call (nnn : Addr12)
  /-- `3xkk` skip if `V[x] = kk` (R83). -/
  | seImm (x : Reg) (kk : Byte)
  /-- `4xkk` skip if `V[x] ≠ kk` (R84). -/
  | sneImm (x : Reg) (kk : Byte)
  /-- `5xy0` skip if `V[x] = V[y]` (R85). -/
  | seReg (x y : Reg)
  /-- `6xkk` load immediate (R90). -/
  | ldImm (x : Reg) (kk : Byte)
  /-- `7xkk` add immediate (R91). -/
  | addImm (x : Reg) (kk : Byte)
  /-- `8xy0` move (R92). -/
  | ldReg (x y : Reg)
  /-- `8xy1` bitwise OR (R93). -/
  | or (x y : Reg)
  /-- `8xy2` bitwise AND (R94). -/
  | and (x y : Reg)
  /-- `8xy3` bitwise exclusive OR (R95). -/
  | xor (x y : Reg)
  /-- `8xy4` add with carry out (R96). -/
  | addReg (x y : Reg)
  /-- `8xy5` subtract (R97). -/
  | subReg (x y : Reg)
  /-- `8xy6` shift right by one (R98). -/
  | shr (x y : Reg)
  /-- `8xy7` reverse subtract (R99). -/
  | subn (x y : Reg)
  /-- `8xyE` shift left by one (R100). -/
  | shl (x y : Reg)
  /-- `9xy0` skip if `V[x] ≠ V[y]` (R86). -/
  | sneReg (x y : Reg)
  /-- `Annn` load the index register (R105). -/
  | ldI (nnn : Addr12)
  /-- `Bnnn` jump with V0 offset (R87). -/
  | jpV0 (nnn : Addr12)
  /-- `Cxkk` random byte under a mask (R121). -/
  | rnd (x : Reg) (kk : Byte)
  /-- `Dxyn` draw a sprite (R122). -/
  | drw (x y : Reg) (n : Nibble)
  /-- `Ex9E` skip if key pressed (R123). -/
  | skp (x : Reg)
  /-- `ExA1` skip if key not pressed (R124). -/
  | sknp (x : Reg)
  /-- `Fx07` read the delay timer (R115). -/
  | ldRegDt (x : Reg)
  /-- `Fx0A` wait for a key (R125). -/
  | ldRegKey (x : Reg)
  /-- `Fx15` write the delay timer (R116). -/
  | ldDtReg (x : Reg)
  /-- `Fx18` write the sound timer (R117). -/
  | ldStReg (x : Reg)
  /-- `Fx1E` add to the index register (R106). -/
  | addI (x : Reg)
  /-- `Fx29` point I at a font glyph (R107). -/
  | ldFont (x : Reg)
  /-- `Fx33` store three decimal digits (R108). -/
  | ldBcd (x : Reg)
  /-- `Fx55` store registers V0 to Vx (R109). -/
  | ldMemReg (x : Reg)
  /-- `Fx65` load registers V0 to Vx (R110). -/
  | ldRegMem (x : Reg)
  deriving DecidableEq, Repr

end Sys2Proof
end

