-- ==== Sys2Proof/WellFormed.lean ====
section
/-!
DEFINITION. The textual terms of 30_encoding.md rule R72 and when one is well formed.

The fields of `Instr` are bit vectors of the widths of rule R61, so an ill-formed `Instr` cannot be built: rule R20
says the same of the hardware ("the register index range 0-15 is guaranteed by construction"). What CAN be ill formed
is a term as a program writer writes it, a mnemonic and some numbers: rule R72 asks that each field fit its width.
`Term.wf` is that check, `Term.instr` the instruction a well-formed term stands for, and `Instr.term` the term of an
instruction.
-/

namespace Sys2Proof

/-- The 34 mnemonics of rule R72 (the "mnemonic" column of spec/opcode_table.json). -/
inductive Mnemonic where
  | cls | ret | jp | call | seImm | sneImm | seReg | ldImm | addImm | ldReg | or | and | xor | addReg | subReg | shr
  | subn | shl | sneReg | ldI | jpV0 | rnd | drw | skp | sknp | ldRegDt | ldRegKey | ldDtReg | ldStReg | addI | ldFont
  | ldBcd | ldMemReg | ldRegMem
  deriving DecidableEq, Repr

/-- The six instruction formats of rule R63. -/
inductive Format where
  | fixed | nnn | xkk | xy | xyn | x
  deriving DecidableEq, Repr

/-- The format of each instruction: the last column but one of rule R65's table. -/
def Mnemonic.format : Mnemonic → Format
  | .cls | .ret => .fixed
  | .jp | .call | .ldI | .jpV0 => .nnn
  | .seImm | .sneImm | .ldImm | .addImm | .rnd => .xkk
  | .seReg | .ldReg | .or | .and | .xor | .addReg | .subReg | .shr | .subn | .shl | .sneReg => .xy
  | .drw => .xyn
  | .skp | .sknp | .ldRegDt | .ldRegKey | .ldDtReg | .ldStReg | .addI | .ldFont | .ldBcd | .ldMemReg | .ldRegMem => .x

/-- A term of rule R72: a mnemonic followed by its fields as numbers, e.g. `SeImm(10, 0x5C)`. -/
structure Term where
  mnemonic : Mnemonic
  fields : List Nat
  deriving DecidableEq, Repr

/-- Each field must fit its width, and the format fixes how many there are (R72: x, y, n 0..15; kk 0..255;
nnn 0..4095). -/
def Term.wf (t : Term) : Bool :=
  match t.mnemonic.format, t.fields with
  | .fixed, [] => true
  | .nnn, [nnn] => decide (nnn < 4096)
  | .xkk, [x, kk] => decide (x < 16) && decide (kk < 256)
  | .xy, [x, y] => decide (x < 16) && decide (y < 16)
  | .xyn, [x, y, n] => decide (x < 16) && decide (y < 16) && decide (n < 16)
  | .x, [x] => decide (x < 16)
  | _, _ => false

/-- Field `j` of a term, narrowed to `w` bits. Only used on well-formed terms, where nothing is lost. -/
def Term.field (t : Term) (w j : Nat) : BitVec w := BitVec.ofNat w (t.fields.getD j 0)

/-- The instruction a term's mnemonic and fields spell. -/
def Term.build (t : Term) : Instr :=
  match t.mnemonic with
  | .cls => .cls
  | .ret => .ret
  | .jp => .jp (t.field 12 0)
  | .call => .call (t.field 12 0)
  | .seImm => .seImm (t.field 4 0) (t.field 8 1)
  | .sneImm => .sneImm (t.field 4 0) (t.field 8 1)
  | .seReg => .seReg (t.field 4 0) (t.field 4 1)
  | .ldImm => .ldImm (t.field 4 0) (t.field 8 1)
  | .addImm => .addImm (t.field 4 0) (t.field 8 1)
  | .ldReg => .ldReg (t.field 4 0) (t.field 4 1)
  | .or => .or (t.field 4 0) (t.field 4 1)
  | .and => .and (t.field 4 0) (t.field 4 1)
  | .xor => .xor (t.field 4 0) (t.field 4 1)
  | .addReg => .addReg (t.field 4 0) (t.field 4 1)
  | .subReg => .subReg (t.field 4 0) (t.field 4 1)
  | .shr => .shr (t.field 4 0) (t.field 4 1)
  | .subn => .subn (t.field 4 0) (t.field 4 1)
  | .shl => .shl (t.field 4 0) (t.field 4 1)
  | .sneReg => .sneReg (t.field 4 0) (t.field 4 1)
  | .ldI => .ldI (t.field 12 0)
  | .jpV0 => .jpV0 (t.field 12 0)
  | .rnd => .rnd (t.field 4 0) (t.field 8 1)
  | .drw => .drw (t.field 4 0) (t.field 4 1) (t.field 4 2)
  | .skp => .skp (t.field 4 0)
  | .sknp => .sknp (t.field 4 0)
  | .ldRegDt => .ldRegDt (t.field 4 0)
  | .ldRegKey => .ldRegKey (t.field 4 0)
  | .ldDtReg => .ldDtReg (t.field 4 0)
  | .ldStReg => .ldStReg (t.field 4 0)
  | .addI => .addI (t.field 4 0)
  | .ldFont => .ldFont (t.field 4 0)
  | .ldBcd => .ldBcd (t.field 4 0)
  | .ldMemReg => .ldMemReg (t.field 4 0)
  | .ldRegMem => .ldRegMem (t.field 4 0)

/-- The instruction a term stands for; an ill-formed term stands for none. -/
def Term.instr (t : Term) : Option Instr := if t.wf then some t.build else none

/-- The mnemonic of an instruction. -/
def Instr.mnemonic : Instr → Mnemonic
  | .cls => .cls
  | .ret => .ret
  | .jp _ => .jp
  | .call _ => .call
  | .seImm _ _ => .seImm
  | .sneImm _ _ => .sneImm
  | .seReg _ _ => .seReg
  | .ldImm _ _ => .ldImm
  | .addImm _ _ => .addImm
  | .ldReg _ _ => .ldReg
  | .or _ _ => .or
  | .and _ _ => .and
  | .xor _ _ => .xor
  | .addReg _ _ => .addReg
  | .subReg _ _ => .subReg
  | .shr _ _ => .shr
  | .subn _ _ => .subn
  | .shl _ _ => .shl
  | .sneReg _ _ => .sneReg
  | .ldI _ => .ldI
  | .jpV0 _ => .jpV0
  | .rnd _ _ => .rnd
  | .drw _ _ _ => .drw
  | .skp _ => .skp
  | .sknp _ => .sknp
  | .ldRegDt _ => .ldRegDt
  | .ldRegKey _ => .ldRegKey
  | .ldDtReg _ => .ldDtReg
  | .ldStReg _ => .ldStReg
  | .addI _ => .addI
  | .ldFont _ => .ldFont
  | .ldBcd _ => .ldBcd
  | .ldMemReg _ => .ldMemReg
  | .ldRegMem _ => .ldRegMem

/-- The fields of an instruction as numbers, in the order of rule R72. -/
def Instr.fields : Instr → List Nat
  | .cls | .ret => []
  | .jp nnn | .call nnn | .ldI nnn | .jpV0 nnn => [nnn.toNat]
  | .seImm x kk | .sneImm x kk | .ldImm x kk | .addImm x kk | .rnd x kk => [x.toNat, kk.toNat]
  | .seReg x y | .ldReg x y | .or x y | .and x y | .xor x y | .addReg x y | .subReg x y | .shr x y | .subn x y
  | .shl x y | .sneReg x y => [x.toNat, y.toNat]
  | .drw x y n => [x.toNat, y.toNat, n.toNat]
  | .skp x | .sknp x | .ldRegDt x | .ldRegKey x | .ldDtReg x | .ldStReg x | .addI x | .ldFont x | .ldBcd x
  | .ldMemReg x | .ldRegMem x => [x.toNat]

/-- The term that spells an instruction (R72). -/
def Instr.term (i : Instr) : Term := { mnemonic := i.mnemonic, fields := i.fields }

/-- An instruction is well formed when the term that spells it is. Every `Instr` is, because its fields have exactly
the widths of R61 (Laws/PerInstr.lean). -/
def Instr.wf (i : Instr) : Bool := i.term.wf

end Sys2Proof
end

