-- ==== Sys2Proof/Decode.lean ====
section
/-!
DEFINITION. The decoder, the encoder and the opcode map (30_encoding.md rules R60 to R70, R74).

`decode` is the two-level decoder of rule R64: the high nibble picks the family; in families 0, 5, 8, 9, E, F a
selector picks the instruction or rejects the word by the name of its family (rule R70's list). `encode` fills the
fields of rule R61 into the pattern of rule R65. `opcodeMap` is rule R65's table of masks and matches.
-/

namespace Sys2Proof

/-- Why a word is invalid: the six groups of rule R70, and a byte list too short to hold a word. -/
inductive InvalidWord where
  /-- `0nnn` other than `00E0`, `00EE` (R66). -/
  | family0
  /-- `5xyN` with N not 0 (R67). -/
  | family5
  /-- `8xyN` with N one of 8, 9, A, B, C, D, F (R68). -/
  | family8
  /-- `9xyN` with N not 0 (R67). -/
  | family9
  /-- `Exkk` with kk not 9E or A1 (R69). -/
  | familyE
  /-- `Fxkk` with kk not one of the nine low bytes of R69. -/
  | familyF
  /-- Fewer than two bytes (R60: every instruction is exactly two). -/
  | truncated
  deriving DecidableEq, Repr

/-- `op = w[15:12]`, the family selector (R61). -/
def opOf (w : Word) : BitVec 4 := w.extractLsb' 12 4
/-- `x = w[11:8]` (R61). -/
def xOf (w : Word) : Reg := w.extractLsb' 8 4
/-- `y = w[7:4]` (R61). -/
def yOf (w : Word) : Reg := w.extractLsb' 4 4
/-- `n = w[3:0]` (R61). -/
def nOf (w : Word) : Nibble := w.extractLsb' 0 4
/-- `kk = w[7:0]` (R61, R62). -/
def kkOf (w : Word) : Byte := w.extractLsb' 0 8
/-- `nnn = w[11:0]` (R61, R62). -/
def nnnOf (w : Word) : Addr12 := w.extractLsb' 0 12

/-- Family 0: the whole low 12 bits select (R64, R66; DESIGN CHOICE of the spec, notes/assumptions/14.md). -/
def decodeFamily0 (w : Word) : Except InvalidWord Instr :=
  match nnnOf w with
  | 0x0E0#12 => .ok .cls
  | 0x0EE#12 => .ok .ret
  | _ => .error .family0

/-- Family 5: the low nibble must be 0 (R67). -/
def decodeFamily5 (w : Word) : Except InvalidWord Instr :=
  match nOf w with
  | 0x0#4 => .ok (.seReg (xOf w) (yOf w))
  | _ => .error .family5

/-- Family 8: the low nibble selects the operation (R68). -/
def decodeFamily8 (w : Word) : Except InvalidWord Instr :=
  match nOf w with
  | 0x0#4 => .ok (.ldReg (xOf w) (yOf w))
  | 0x1#4 => .ok (.or (xOf w) (yOf w))
  | 0x2#4 => .ok (.and (xOf w) (yOf w))
  | 0x3#4 => .ok (.xor (xOf w) (yOf w))
  | 0x4#4 => .ok (.addReg (xOf w) (yOf w))
  | 0x5#4 => .ok (.subReg (xOf w) (yOf w))
  | 0x6#4 => .ok (.shr (xOf w) (yOf w))
  | 0x7#4 => .ok (.subn (xOf w) (yOf w))
  | 0xE#4 => .ok (.shl (xOf w) (yOf w))
  | _ => .error .family8

/-- Family 9: the low nibble must be 0 (R67). -/
def decodeFamily9 (w : Word) : Except InvalidWord Instr :=
  match nOf w with
  | 0x0#4 => .ok (.sneReg (xOf w) (yOf w))
  | _ => .error .family9

/-- Family E: the low byte selects (R69). -/
def decodeFamilyE (w : Word) : Except InvalidWord Instr :=
  match kkOf w with
  | 0x9E#8 => .ok (.skp (xOf w))
  | 0xA1#8 => .ok (.sknp (xOf w))
  | _ => .error .familyE

/-- Family F: the low byte selects one of nine (R69; eight of the nine bytes are PRESUMED by the spec,
notes/assumptions/15.md). -/
def decodeFamilyF (w : Word) : Except InvalidWord Instr :=
  match kkOf w with
  | 0x07#8 => .ok (.ldRegDt (xOf w))
  | 0x0A#8 => .ok (.ldRegKey (xOf w))
  | 0x15#8 => .ok (.ldDtReg (xOf w))
  | 0x18#8 => .ok (.ldStReg (xOf w))
  | 0x1E#8 => .ok (.addI (xOf w))
  | 0x29#8 => .ok (.ldFont (xOf w))
  | 0x33#8 => .ok (.ldBcd (xOf w))
  | 0x55#8 => .ok (.ldMemReg (xOf w))
  | 0x65#8 => .ok (.ldRegMem (xOf w))
  | _ => .error .familyF

/-- `Decode(w)`, total on all 65536 words and a function of the word alone (R64). -/
def decode (w : Word) : Except InvalidWord Instr :=
  match opOf w with
  | 0x0#4 => decodeFamily0 w
  | 0x1#4 => .ok (.jp (nnnOf w))
  | 0x2#4 => .ok (.call (nnnOf w))
  | 0x3#4 => .ok (.seImm (xOf w) (kkOf w))
  | 0x4#4 => .ok (.sneImm (xOf w) (kkOf w))
  | 0x5#4 => decodeFamily5 w
  | 0x6#4 => .ok (.ldImm (xOf w) (kkOf w))
  | 0x7#4 => .ok (.addImm (xOf w) (kkOf w))
  | 0x8#4 => decodeFamily8 w
  | 0x9#4 => decodeFamily9 w
  | 0xA#4 => .ok (.ldI (nnnOf w))
  | 0xB#4 => .ok (.jpV0 (nnnOf w))
  | 0xC#4 => .ok (.rnd (xOf w) (kkOf w))
  | 0xD#4 => .ok (.drw (xOf w) (yOf w) (nOf w))
  | 0xE#4 => decodeFamilyE w
  | _ => decodeFamilyF w

/-- The word of two bytes, the first (the one at the lower address) being the high byte (R43, R60). -/
def wordOfBytes (hi lo : Byte) : Word := hi ++ lo

/-- The byte of a word stored at the lower address (R43). -/
def highByte (w : Word) : Byte := w.extractLsb' 8 8

/-- The byte of a word stored at the higher address (R43). -/
def lowByte (w : Word) : Byte := w.extractLsb' 0 8

/-- Decode the first instruction of a byte stream (R60: always exactly two bytes) and give the rest. -/
def decodeBytes : List Byte → Except InvalidWord (Instr × List Byte)
  | hi :: lo :: rest =>
    match decode (wordOfBytes hi lo) with
    | .ok i => .ok (i, rest)
    | .error e => .error e
  | _ => .error .truncated

/-- The bytes of a word in the order the hardware stores them (R43). -/
def bytesOfWord (w : Word) : List Byte := [highByte w, lowByte w]

/-- The instruction the decoder reads from the opcode-table word `w` of `nbits` bits (bits above `nbits` are 0). -/
def decodeTableWord (nbits w : Nat) : Option Instr :=
  match decodeBytes (bytesOfWord (BitVec.ofNat 16 (w % 2 ^ nbits))) with
  | .ok (i, _) => some i
  | .error _ => none

/-- The one word of an instruction: its fields in the pattern of rule R65 (R72, R74). -/
def encode : Instr → Word
  | .cls => 0x00E0#16
  | .ret => 0x00EE#16
  | .jp nnn => 0x1#4 ++ nnn
  | .call nnn => 0x2#4 ++ nnn
  | .seImm x kk => 0x3#4 ++ x ++ kk
  | .sneImm x kk => 0x4#4 ++ x ++ kk
  | .seReg x y => 0x5#4 ++ x ++ y ++ 0x0#4
  | .ldImm x kk => 0x6#4 ++ x ++ kk
  | .addImm x kk => 0x7#4 ++ x ++ kk
  | .ldReg x y => 0x8#4 ++ x ++ y ++ 0x0#4
  | .or x y => 0x8#4 ++ x ++ y ++ 0x1#4
  | .and x y => 0x8#4 ++ x ++ y ++ 0x2#4
  | .xor x y => 0x8#4 ++ x ++ y ++ 0x3#4
  | .addReg x y => 0x8#4 ++ x ++ y ++ 0x4#4
  | .subReg x y => 0x8#4 ++ x ++ y ++ 0x5#4
  | .shr x y => 0x8#4 ++ x ++ y ++ 0x6#4
  | .subn x y => 0x8#4 ++ x ++ y ++ 0x7#4
  | .shl x y => 0x8#4 ++ x ++ y ++ 0xE#4
  | .sneReg x y => 0x9#4 ++ x ++ y ++ 0x0#4
  | .ldI nnn => 0xA#4 ++ nnn
  | .jpV0 nnn => 0xB#4 ++ nnn
  | .rnd x kk => 0xC#4 ++ x ++ kk
  | .drw x y n => 0xD#4 ++ x ++ y ++ n
  | .skp x => 0xE#4 ++ x ++ 0x9E#8
  | .sknp x => 0xE#4 ++ x ++ 0xA1#8
  | .ldRegDt x => 0xF#4 ++ x ++ 0x07#8
  | .ldRegKey x => 0xF#4 ++ x ++ 0x0A#8
  | .ldDtReg x => 0xF#4 ++ x ++ 0x15#8
  | .ldStReg x => 0xF#4 ++ x ++ 0x18#8
  | .addI x => 0xF#4 ++ x ++ 0x1E#8
  | .ldFont x => 0xF#4 ++ x ++ 0x29#8
  | .ldBcd x => 0xF#4 ++ x ++ 0x33#8
  | .ldMemReg x => 0xF#4 ++ x ++ 0x55#8
  | .ldRegMem x => 0xF#4 ++ x ++ 0x65#8

/-- One row of the opcode map of rule R65. -/
structure OpcodeRow where
  mnemonic : Mnemonic
  mask : Word
  pattern : Word
  deriving DecidableEq, Repr

/-- A word selects a row when `w & mask = match` (R65). -/
def OpcodeRow.selects (r : OpcodeRow) (w : Word) : Bool := w &&& r.mask == r.pattern

/-- Rows of R65 whose format is FIXED, NNN or XKK or XYN. -/
def opcodeMapWide : List OpcodeRow :=
  [⟨.cls, 0xFFFF, 0x00E0⟩, ⟨.ret, 0xFFFF, 0x00EE⟩, ⟨.jp, 0xF000, 0x1000⟩, ⟨.call, 0xF000, 0x2000⟩,
   ⟨.seImm, 0xF000, 0x3000⟩, ⟨.sneImm, 0xF000, 0x4000⟩, ⟨.ldImm, 0xF000, 0x6000⟩, ⟨.addImm, 0xF000, 0x7000⟩,
   ⟨.ldI, 0xF000, 0xA000⟩, ⟨.jpV0, 0xF000, 0xB000⟩, ⟨.rnd, 0xF000, 0xC000⟩, ⟨.drw, 0xF000, 0xD000⟩]

/-- Rows of R65 whose format is XY. -/
def opcodeMapXY : List OpcodeRow :=
  [⟨.seReg, 0xF00F, 0x5000⟩, ⟨.ldReg, 0xF00F, 0x8000⟩, ⟨.or, 0xF00F, 0x8001⟩, ⟨.and, 0xF00F, 0x8002⟩,
   ⟨.xor, 0xF00F, 0x8003⟩, ⟨.addReg, 0xF00F, 0x8004⟩, ⟨.subReg, 0xF00F, 0x8005⟩, ⟨.shr, 0xF00F, 0x8006⟩,
   ⟨.subn, 0xF00F, 0x8007⟩, ⟨.shl, 0xF00F, 0x800E⟩, ⟨.sneReg, 0xF00F, 0x9000⟩]

/-- Rows of R65 whose format is X. -/
def opcodeMapX : List OpcodeRow :=
  [⟨.skp, 0xF0FF, 0xE09E⟩, ⟨.sknp, 0xF0FF, 0xE0A1⟩, ⟨.ldRegDt, 0xF0FF, 0xF007⟩, ⟨.ldRegKey, 0xF0FF, 0xF00A⟩,
   ⟨.ldDtReg, 0xF0FF, 0xF015⟩, ⟨.ldStReg, 0xF0FF, 0xF018⟩, ⟨.addI, 0xF0FF, 0xF01E⟩, ⟨.ldFont, 0xF0FF, 0xF029⟩,
   ⟨.ldBcd, 0xF0FF, 0xF033⟩, ⟨.ldMemReg, 0xF0FF, 0xF055⟩, ⟨.ldRegMem, 0xF0FF, 0xF065⟩]

/-- The complete opcode map of rule R65, 34 rows. -/
def opcodeMap : List OpcodeRow := opcodeMapWide ++ opcodeMapXY ++ opcodeMapX

end Sys2Proof
end

