-- ==== Sys2Proof/Config.lean ====
section
/-!
DEFINITION. The parameters of the hardware (00_scope.md rule R4), and the events (R8) and answers (10_state.md rule R34)
of the environment that no script of the state supplies.

The parameters the spec leaves to a choice are data in `Params`, and a state carries its `Params`, so that a statement
over all states holds for every choice: both memory policies, both stack policies, both settings of `ADDI_SETS_VF`,
every `FONT_BASE` and every `INIT_MEM` (notes/assumptions/1.md). The other parameters of R4 are the widths and counts
below. The constants declared `opaque` have no value anyone can see.
-/

namespace Sys2Proof

/-- `MEM_SIZE` (R4): bytes of memory. -/
def Config.memSize : Nat := 4096

/-- `STACK_DEPTH` (R4): entries of the call stack. -/
def Config.stackDepth : Nat := 16

/-- `PROGRAM_BASE` (R4, R36): the reset value of PC. -/
def Config.programBase : Word := 0x200#16

/-- `FONT_GLYPH_BYTES` (R4): bytes per font glyph. -/
def Config.glyphBytes : Nat := 5

/-- `FONT_BASE` of the machine after reset, an OPEN parameter (R4, D8, N3): any of the addresses 0 to 4016, so that
`FONT_BASE + 80 ≤ 4096`. No value is visible (notes/assumptions/2.md). -/
opaque Config.fontSlot : Fin 4017

/-- `FONT_BASE` as a 16-bit value. -/
def Config.fontBase : Word := BitVec.ofNat 16 Config.fontSlot.val

/-- The three kinds of event that move the machine (R8). -/
inductive EventKind where
  | step | tick | reset
  deriving DecidableEq, Repr, Inhabited

/-- Which event the environment raises as draw number `k`: a free value, so a `Tick` or a `Reset` may come before, between
and after any two steps, any number of times (R8, R119, notes/assumptions/4.md). -/
opaque Config.freeKind : Nat → EventKind

/-- Answer number `k` of the input source to "is a key down", all 16 keys (R34): a free value. -/
opaque Config.freeKeyDown : Nat → Word

/-- Answer number `k` of the input source to "has a key press arrived" (R34): a free value. -/
opaque Config.freeKeyEvent : Nat → Option Nibble

/-- Answer number `k` of the entropy source (R34, D21): a free value. -/
opaque Config.freeRand : Nat → Byte

/-- Answer number `k` of the display sink to "was a lit pixel erased" (R34, D20): a free value. -/
opaque Config.freeCollided : Nat → Bool

/-- `MEM_OOB_POLICY` (R4, R41, R42): what a memory index above 4095 does. -/
inductive MemPolicy where
  /-- The default: the index is taken modulo 4096 (R41). -/
  | mask
  /-- The alternative: the access raises `MemoryFault` (R42). -/
  | fault
  deriving DecidableEq, Repr

/-- `STACK_POLICY` (R4, R27): what a push on a full stack or a pop on an empty one does. -/
inductive StackPolicy where
  /-- The default: the pointer wraps (R27). -/
  | wrap
  /-- The alternative: `StackFault`, with the `DEPTH` counter (R27, R133). -/
  | fault
  deriving DecidableEq, Repr

/-- The memory array of rule R29, as a list of (address, byte) pairs. Its canonical form, and what an address it does
not list reads as, are in Machine/Ops.lean. -/
abbrev Memory := List Host.Cell

/-- The parameters of rule R4 that a model must be able to vary. -/
structure Params where
  /-- `MEM_OOB_POLICY`. -/
  memPolicy : MemPolicy
  /-- `STACK_POLICY`. -/
  stackPolicy : StackPolicy
  /-- `ADDI_SETS_VF`: whether `AddI` writes VF (R106, D16). -/
  addISetsVF : Bool
  /-- `FONT_BASE`, OPEN (D8). -/
  fontBase : Word
  /-- `INIT_MEM`, OPEN (D7): the memory image a `Reset` leaves (R155). -/
  initMem : Memory
  deriving DecidableEq, Repr

/-- The defaults of rule R4, with `FONT_BASE` the unknown constant above and no memory image loaded
(notes/assumptions/3.md). -/
def Params.default : Params :=
  { memPolicy := .mask, stackPolicy := .wrap, addISetsVF := false, fontBase := Config.fontBase, initMem := [] }

end Sys2Proof
end

