-- ==== Sys2Proof/Machine/State.lean ====
section
/-!
DEFINITION. The state of the machine (10_state.md rules R20 to R31), the events that move it (00_scope.md rule R8), the
values that pass between it and its environment (R34, R35), and its value after reset (R36).

A fault of this hardware is not an `Outcome.fault`: rule R135 describes exactly what a fault does (it latches a record
and ends the step, everything else as before) and rule R137 what the latched machine does (every later step changes
nothing), so a fault is an ordinary next state with `fault` set (notes/assumptions/10.md). No meaning of this
model stops.
-/

namespace Sys2Proof.Machine

/-- The kind of a fault together with the `info` its kind records (R130). -/
inductive FaultCause where
  /-- Code 1, `DecodeFault`: the fetched word is invalid (R131). No info. -/
  | decode
  /-- Code 2, `MemoryFault`: an index above 4095 under `MEM_OOB_POLICY = fault` (R132); info: the offending address. -/
  | memory (addr : Nat)
  /-- Code 3, `StackFault` with info `overflow`: a push with 16 entries held (R133). -/
  | stackOverflow
  /-- Code 3, `StackFault` with info `underflow`: a pop with none held (R133). -/
  | stackUnderflow
  /-- Code 4, `KeyRangeFault`: `Skp` or `Sknp` with `V[x] > 15` (R134); info: the value of `V[x]`. -/
  | keyRange (key : Byte)
  deriving DecidableEq, Repr

/-- The record a fault latches: `(kind, pc, word, info)` (R31, R135, R136). -/
structure FaultRecord where
  /-- Kind and info. -/
  cause : FaultCause
  /-- The unmasked 16-bit address the faulting instruction was fetched from. -/
  pc : Word
  /-- The word fetched; `none` in the one case where the fetch itself faulted (R136). -/
  word : Option Word
  deriving DecidableEq, Repr

/-- The answers of the environment to one `Step` (R34). Each is a free value. -/
structure Env where
  /-- Bit `k` is 1 when key `k` is held down now. -/
  keyDown : Word
  /-- The key of a key press that has arrived, if one has. -/
  keyEvent : Option Nibble
  /-- A random byte. -/
  rand : Byte
  /-- The draw erased at least one lit pixel. -/
  collided : Bool
  deriving DecidableEq, Repr

/-- A command to the environment (R35). -/
inductive Command where
  /-- `emit DisplayClear`. -/
  | displayClear
  /-- `emit DisplayDraw(xpos, ypos, bytes)`. -/
  | displayDraw (xpos ypos : Byte) (bytes : List Byte)
  deriving DecidableEq, Repr

/-- The three events, each atomic, that move the machine (R8). -/
inductive Event where
  /-- `Reset` (R155). -/
  | reset
  /-- `Step(env)` (R76). -/
  | step (env : Env)
  /-- `Tick` (R118). -/
  | tick
  deriving DecidableEq, Repr

/-- The state. The fields from `v` to `fault` are the spec's complete list of state (10_state.md, R33); `params` are
the parameters of R4, fixed for a machine; the last four are the model's own and hold what passes between the machine
and its environment. -/
structure State where
  /-- `V[0]` .. `V[15]`, 8 bits each (R20); `VF` is `V[15]` (R21). -/
  v : Vector Byte 16
  /-- `PC`, 16 bits, never masked when written (R23). -/
  pc : Word
  /-- `I`, 16 bits, never masked when written (R25). -/
  idx : Word
  /-- `SP`, 4 bits: the next free entry of the stack (R26, R27). -/
  sp : BitVec 4
  /-- `STACK[0]` .. `STACK[15]`, 16 bits each, outside memory (R26). -/
  stack : Vector Word 16
  /-- `DEPTH` in 0..16, in use only under `STACK_POLICY = fault` (R27); it stays 0 under `wrap`. -/
  depth : Nat
  /-- `DT`, the delay timer (R28). -/
  dt : Byte
  /-- `ST`, the sound timer (R28). -/
  st : Byte
  /-- `MEM[0]` .. `MEM[4095]` (R29). -/
  mem : Memory
  /-- `WAIT`: awaiting a key (R30). -/
  wait : Bool
  /-- `WAITREG`: the register the awaited key goes to (R30). -/
  waitReg : Reg
  /-- `FAULT`: `none`, or the latched record (R31). -/
  fault : Option FaultRecord
  /-- The parameters of R4. No event changes them. -/
  params : Params
  /-- The model's own: the environment's answers to the latest `Step` (R34); `Step` sets it before it does anything
  else, and the instructions that ask read it. -/
  env : Env
  /-- The model's own: the events the environment raises next, the next one first. When it is empty the environment
  raises an event of a free kind with free answers. -/
  agenda : List Event
  /-- The model's own: how many events have been drawn freely; the next free event, its kind and its answers, is number
  `draws`. -/
  draws : Nat
  /-- The model's own: the commands handed to the environment so far, the latest first (R35, notes/assumptions/29.md). -/
  out : List Command
  deriving DecidableEq, Repr

/-- Reasons for which the machine could stop with a fault of the model. There are none: every fault of the hardware is
latched in the state (R135), and every instruction runs in every state. -/
inductive Fault where
  deriving DecidableEq, Repr

/-- Reasons for which the model could refuse an instruction. -/
inductive Refusal where
  /-- Raised only by an arm of `exec` for an instruction without a meaning. Safe: nothing is claimed of it. No arm of
  this model raises it. -/
  | notModelled (mnemonic : String)
  deriving DecidableEq, Repr

/-- What a step or an instruction answers. -/
abbrev Result := Host.Outcome State Fault Refusal

/-- The value `env` holds before the first `Step` (DESIGN CHOICE, notes/assumptions/5.md). Nothing reads it: every `Step`
sets `env` first. -/
def Env.idle : Env := { keyDown := 0, keyEvent := none, rand := 0, collided := false }

/-- A freshly reset machine with the given parameters (R36, R155): PC at `PROGRAM_BASE`, memory the image `INIT_MEM`,
everything else zero (D7, notes/assumptions/9.md), no fault, no wait. -/
def State.boot (p : Params) : State :=
  { v := Vector.replicate 16 0
    pc := Config.programBase
    idx := 0
    sp := 0
    stack := Vector.replicate 16 0
    depth := 0
    dt := 0
    st := 0
    mem := p.initMem
    wait := false
    waitReg := 0
    fault := none
    params := p
    env := Env.idle
    agenda := []
    draws := 0
    out := [] }

/-- The machine right after reset with the default parameters (R36) and nothing loaded. -/
def State.reset : State := State.boot Params.default

end Sys2Proof.Machine
end

