-- ==== Sys2Proof/Machine/Ops.lean ====
section
/-!
DEFINITION. The named operations over registers, memory, stack and timers, and what a fault does. Every instruction and
every event is written over these.
-/

namespace Sys2Proof.Machine

/-! ## Memory -/

/-- What an address that no entry lists reads as: 0 (DESIGN CHOICE, notes/assumptions/3.md; `INIT_MEM` is OPEN, R36). -/
def Memory.unlisted : Byte := 0#8

/-- The byte at an index. -/
def Memory.read : Memory → Nat → Byte
  | [], _ => Memory.unlisted
  | (k, b) :: m, a => if k = a then b else Memory.read m a

/-- Remove what an index holds. -/
def Memory.erase (m : Memory) (a : Nat) : Memory := m.filter fun c => c.1 != a

/-- Put an entry where addresses stay rising. -/
def Memory.insert : Memory → Nat → Byte → Memory
  | [], a, v => [(a, v)]
  | (k, b) :: m, a, v => if a < k then (a, v) :: (k, b) :: m else (k, b) :: Memory.insert m a v

/-- Write a byte at an index, keeping the canonical form: the value an unlisted address reads as is not listed. -/
def Memory.write (m : Memory) (a : Nat) (v : Byte) : Memory :=
  if v = Memory.unlisted then Memory.erase m a else Memory.insert (Memory.erase m a) a v

/-- The canonical form: addresses strictly rising and below 4096 (R29), no entry equal to what an unlisted address
reads as. -/
def Memory.wf : Memory → Bool
  | [] => true
  | (k, b) :: m =>
    decide (k < Config.memSize) && b != Memory.unlisted && m.all (fun c => decide (k < c.1)) && Memory.wf m

/-- The index of an address: its low 12 bits (R41, notes/assumptions/12.md). Under `MEM_OOB_POLICY = fault` an address is used only after the
check of R42, and is then below 4096 anyway. -/
def memIndex (addr : Nat) : Nat := addr % Config.memSize

/-- `MemRead(addr, 1)` of R41. -/
def State.readByte (s : State) (addr : Nat) : Byte := Memory.read s.mem (memIndex addr)

/-- `MemWrite(addr, 1, v)` of R41. -/
def State.writeByte (s : State) (addr : Nat) (v : Byte) : State := { s with mem := Memory.write s.mem (memIndex addr) v }

/-- The lowest of the addresses `base`, .., `base + count - 1` that raises `MemoryFault`: none under the policy `mask`
(R41); under `fault`, the first one above 4095 (R42, R138). -/
def State.firstOob (s : State) (base count : Nat) : Option Nat :=
  match s.params.memPolicy with
  | .mask => none
  | .fault => ((List.range count).map (base + ·)).find? fun a => decide (4095 < a)

/-- The bytes at `base`, .., `base + count - 1`, ascending (R45). -/
def State.bytesAt (s : State) (base count : Nat) : List Byte := (List.range count).map fun k => s.readByte (base + k)

/-- Write bytes at ascending addresses from `base` (R45). -/
def State.storeBytes (s : State) (base : Nat) : List Byte → State
  | [] => s
  | b :: bs => (s.writeByte base b).storeBytes (base + 1) bs

/-- Load registers `V[0]`, .., `V[last]` from ascending addresses from `base` (R110). No address depends on a V
register, so the loads are independent of each other. -/
def State.loadRegs (s : State) (base last : Nat) : State :=
  { s with v := Vector.ofFn fun j => if j.val ≤ last then s.readByte (base + j.val) else s.v[j] }

/-- `MemRead(a, 2)`, the instruction fetch at PC: big-endian, each byte through R41 or R42 separately (R43); the error is
the address that faults (R138: first byte, then second). -/
def State.fetchWord (s : State) : Except Nat Word :=
  match s.firstOob s.pc.toNat 2 with
  | some a => .error a
  | none => .ok (wordOfBytes (s.readByte s.pc.toNat) (s.readByte (s.pc.toNat + 1)))

/-! ## Registers -/

/-- `V[x]` (R7, R20). -/
def State.getV (s : State) (x : Reg) : Byte := s.v[x.toNat]'x.isLt

/-- `V[x] <- b` (R7, R20). -/
def State.setV (s : State) (x : Reg) (b : Byte) : State := { s with v := s.v.set x.toNat b x.isLt }

/-- `PC <- target` (R7). PC is never masked when written (R23). -/
def State.jump (s : State) (target : Word) : State := { s with pc := target }

/-- The advance every executed instruction makes before its effect: `PC <- (PC + 2) mod 2^16` (R24, R76,
notes/assumptions/20.md). -/
def State.advance (s : State) : State := { s with pc := s.pc + 2 }

/-- `if c then Skip()` (R77). -/
def State.skipIf (s : State) (c : Bool) : State := { s with pc := if c then s.pc + 2 else s.pc }

/-- `I <- a` (R25). -/
def State.setI (s : State) (a : Word) : State := { s with idx := a }

/-- `DT <- b` (R28). -/
def State.setDt (s : State) (b : Byte) : State := { s with dt := b }

/-- `ST <- b` (R28). -/
def State.setSt (s : State) (b : Byte) : State := { s with st := b }

/-! ## The call stack -/

/-- A push would raise `StackFault`: only under `STACK_POLICY = fault`, with 16 entries held (R27, R133). -/
def State.stackFull (s : State) : Bool := s.params.stackPolicy == .fault && s.depth == Config.stackDepth

/-- A pop would raise `StackFault`: only under `STACK_POLICY = fault`, with no entry held (R27, R133). -/
def State.stackEmpty (s : State) : Bool := s.params.stackPolicy == .fault && s.depth == 0

/-- `Push(v)`: write the entry SP names, then increment SP modulo 16 (R27, notes/assumptions/13.md). `DEPTH` counts only
under the policy `fault`. -/
def State.push (s : State) (v : Word) : State :=
  { s with
    stack := s.stack.set s.sp.toNat v s.sp.isLt
    sp := s.sp + 1
    depth := match s.params.stackPolicy with
      | .wrap => s.depth
      | .fault => s.depth + 1 }

/-- The value `Pop()` returns: the entry below SP, SP taken modulo 16 (R27). -/
def State.top (s : State) : Word := s.stack[(s.sp - 1).toNat]'(s.sp - 1).isLt

/-- `Pop()`: decrement SP modulo 16; the entry stays in place (R27). -/
def State.pop (s : State) : State :=
  { s with
    sp := s.sp - 1
    depth := match s.params.stackPolicy with
      | .wrap => s.depth
      | .fault => s.depth - 1 }

/-! ## Commands -/

/-- `emit c` (R35). -/
def State.emit (s : State) (c : Command) : State := { s with out := c :: s.out }

/-! ## Faults: the one exception mechanism of this hardware (R135 to R137, R141, R142)

A fault saves a record and stops the machine; there is no handler, no return and no saved status (notes/assumptions/10.md,
notes/assumptions/11.md). -/

/-- The numeric code of a fault (R130, D13, notes/assumptions/26.md). -/
def FaultCause.code : FaultCause → Nat
  | .decode => 1
  | .memory _ => 2
  | .stackOverflow | .stackUnderflow => 3
  | .keyRange _ => 4

/-- `FAULT <- (kind, pc, word, info)` and nothing else (R135). The state is the one before the step's instruction
changed anything, so `pc` is the address the instruction was fetched from. -/
def State.latch (s : State) (c : FaultCause) (w : Option Word) : State :=
  { s with fault := some { cause := c, pc := s.pc, word := w } }

/-- `raise c` inside instruction `i`, in the state before the instruction changed anything: the step ends with the
fault latched (R135). The word recorded is the one fetched, which is the only word that decodes to `i` (R74). -/
def raise (i : Instr) (c : FaultCause) (s : State) : Result := .next (s.latch c (some (encode i)))

/-- Instruction `i` accesses the `count` bytes from I on: if one of the addresses faults, the lowest such is raised and
nothing is written; otherwise the instruction ends in `k` (R42, R135, R138). -/
def accessing (i : Instr) (count : Nat) (s k : State) : Result :=
  match s.firstOob s.idx.toNat count with
  | some a => raise i (.memory a) s
  | none => .next k

/-! ## The events that execute no instruction -/

/-- One timer's share of a `Tick`: down by one, with a floor at zero (R118). -/
def countDown (t : Byte) : Byte := if t = 0 then 0 else t - 1

/-- `Tick`: both timers count down; nothing else changes (R118). -/
def State.tickTimers (s : State) : State := { s with dt := countDown s.dt, st := countDown s.st }

/-- `Reset`: every piece of state of 10_state.md takes its reset value, memory the image `INIT_MEM` (R155). The
parameters stay, and so does what belongs to the environment: its answers, its agenda, what it has been handed
(notes/assumptions/24.md). -/
def State.resetCore (s : State) : State :=
  { State.boot s.params with env := s.env, agenda := s.agenda, draws := s.draws, out := s.out }

/-- `KeyWaitStep`: what a `Step` does while `WAIT = 1` (R126). Without a key event nothing changes; with one, the key goes
to `V[WAITREG]` and the wait ends. Nothing is fetched and PC stays (notes/assumptions/16.md). -/
def State.keyWait (s : State) : State :=
  match s.env.keyEvent with
  | none => s
  | some k => { s.setV s.waitReg (k.setWidth 8) with wait := false }

/-- The free answers to a `Step` that is draw number `k` (R34, notes/assumptions/4.md). -/
def freeEnv (k : Nat) : Env :=
  { keyDown := Config.freeKeyDown k
    keyEvent := Config.freeKeyEvent k
    rand := Config.freeRand k
    collided := Config.freeCollided k }

/-- The event that is draw number `k` when the agenda has none left: any of the three kinds, with free answers if it is a
`Step` (R8, R119, notes/assumptions/4.md). -/
def freeEvent (k : Nat) : Event :=
  match Config.freeKind k with
  | .step => .step (freeEnv k)
  | .tick => .tick
  | .reset => .reset

/-- An event is a `Step`. -/
def Event.isStep : Event → Bool
  | .step _ => true
  | .reset | .tick => false

/-- The PC a next fetch can succeed at: PC itself, unless `MEM_OOB_POLICY = fault` makes that fetch fault, and then the
entry point. Used by `State.withFetchWord` only. -/
def State.fetchablePc (s : State) : Word :=
  match s.firstOob s.pc.toNat 2 with
  | some _ => Config.programBase
  | none => s.pc

/-- Let the next event be a `Step`: the first one of the agenda, or one with free answers if the agenda has none. Used by
`State.withFetchWord` only. -/
def State.stepNext (s : State) : State :=
  match s.agenda.dropWhile fun e => !e.isStep with
  | [] => { s with agenda := [.step (freeEnv s.draws)], draws := s.draws + 1 }
  | e :: rest => { s with agenda := e :: rest }

/-- Load a word where the next step fetches, and let the next event be a `Step` that fetches: no fault latched, no key
wait, no `Tick` or `Reset` first. This stands for the program loader, which is outside the machine (R3, R157). -/
def State.loadWord (s : State) (w : Word) : State :=
  let s1 := { s.stepNext with pc := s.fetchablePc, fault := none, wait := false }
  s1.storeBytes s1.pc.toNat (bytesOfWord w)

end Sys2Proof.Machine
end

