-- ==== Sys2Proof/Machine/Operands.lean ====
section
/-!
DEFINITION. The operand forms. Every operand is a field of the word (30_encoding.md rules R61, R62): a register index, an
immediate byte, a 12-bit address, a count; none is signed, scaled or shifted. The one data addressing mode is I plus a
small offset (42_index_memory.md rule R111).
-/

namespace Sys2Proof.Machine

/-- `zext_16(nnn)`: an address field as a 16-bit value (R62). -/
def addrOperand (nnn : Addr12) : Word := nnn.setWidth 16

/-- `zext_16(V[x])`: a register as a 16-bit value (R87, R106, R107). -/
def State.wideV (s : State) (x : Reg) : Word := (s.getV x).setWidth 16

/-- The implied operand V0 of `JpV0` (R87): the target is `nnn + V0`, a sum that fits 16 bits. -/
def State.indexedTarget (s : State) (nnn : Addr12) : Word := addrOperand nnn + s.wideV 0

/-- The base address of the data addressing mode: I, as a number (R111). -/
def State.base (s : State) : Nat := s.idx.toNat

/-- The registers `V[0]`, .., `V[x]` in ascending order: what `LdMemReg(x)` stores (R109). -/
def State.regsUpTo (s : State) (x : Reg) : List Byte := s.v.toList.take (x.toNat + 1)

/-- The decimal digits of a byte, hundreds first: what `LdBcd` stores (R108). -/
def bcdDigits (v : Byte) : List Byte :=
  [BitVec.ofNat 8 (v.toNat / 100), BitVec.ofNat 8 (v.toNat / 10 % 10), BitVec.ofNat 8 (v.toNat % 10)]

/-- `FONT_BASE + 5 * V[x]`, modulo 2^16, on the whole 8-bit value (R107, D18, notes/assumptions/18.md). -/
def State.glyphAddr (s : State) (x : Reg) : Word :=
  s.params.fontBase + BitVec.ofNat 16 Config.glyphBytes * s.wideV x

/-- The answer of the input source for the key that a register's VALUE names (R123). Used for keys 0 to 15 only. -/
def State.keyHeld (s : State) (k : Byte) : Bool := s.env.keyDown.getLsbD k.toNat

/-- The addresses an instruction stores to, as memory indices: a function of the state before it (R45, R111). -/
def storeSpan (i : Instr) (s : State) : List Nat :=
  match i with
  | .ldBcd _ => (List.range 3).map fun k => memIndex (s.base + k)
  | .ldMemReg x => (List.range (x.toNat + 1)).map fun k => memIndex (s.base + k)
  | .cls | .ret | .jp _ | .call _ | .seImm _ _ | .sneImm _ _ | .seReg _ _ | .ldImm _ _ | .addImm _ _ | .ldReg _ _
  | .or _ _ | .and _ _ | .xor _ _ | .addReg _ _ | .subReg _ _ | .shr _ _ | .subn _ _ | .shl _ _ | .sneReg _ _
  | .ldI _ | .jpV0 _ | .rnd _ _ | .drw _ _ _ | .skp _ | .sknp _ | .ldRegDt _ | .ldRegKey _ | .ldDtReg _
  | .ldStReg _ | .addI _ | .ldFont _ | .ldRegMem _ => []

end Sys2Proof.Machine
end

