-- ==== Sys2Proof/Machine/Flags.lean ====
section
/-!
DEFINITION. The flag computations (10_state.md rules R21, R22). There is no flag register: a flag is written to VF, as
exactly 0 or 1, AFTER the result, and is computed from the operands' old values.
-/

namespace Sys2Proof.Machine

/-- A flag as the byte VF takes: exactly 0 or 1 (R21). -/
def flagByte (f : Bool) : Byte := if f then 1#8 else 0#8

/-- `V[15] <- f ? 1 : 0`, the last write of a flag-writing instruction (R22). -/
def State.setFlag (s : State) (f : Bool) : State := s.setV VF (flagByte f)

/-- Carry out of an 8-bit addition: the sum exceeds 255 (R96). -/
def carryOut (a b : Byte) : Bool := decide (255 < a.toNat + b.toNat)

/-- NOT borrow of `a - b`: `a ≥ b`, unsigned (R97, R99). -/
def noBorrow (a b : Byte) : Bool := decide (b.toNat ≤ a.toNat)

/-- The bit a right shift by one shifts out: bit 0 (R98). -/
def bitOutRight (a : Byte) : Bool := a.getLsbD 0

/-- The bit a left shift by one shifts out: bit 7 (R100). -/
def bitOutLeft (a : Byte) : Bool := a.getLsbD 7

/-- The display sink's answer to a draw of `n` bytes. A draw of no bytes erases nothing, so the answer to it is "no"
(R122, DEDUCED by the spec from the sink's contract, notes/assumptions/7.md). -/
def collisionAnswer (n : Nibble) (env : Env) : Bool := n != 0#4 && env.collided

/-- The condition of `AddI`'s flag under `ADDI_SETS_VF = true`: the new I is above 0x0FFF (R106, notes/assumptions/8.md). -/
def aboveMemory (newI : Word) : Bool := decide (0x0FFF < newI.toNat)

end Sys2Proof.Machine
end

