-- ==== Sys2Proof/Machine/Alu.lean ====
section
/-!
DEFINITION. 41_alu.md: immediates, moves, logic, add, subtract, shifts. The five flag-writing ones read both operands,
write `V[x]`, then write VF (10_state.md rule R22), so with `x = 15` the flag wins.
-/

namespace Sys2Proof.Machine

/-- R90: `V[x] <- kk`. -/
def execLdImm (x : Reg) (kk : Byte) (s : State) : Result := .next (s.advance.setV x kk)

/-- R91: `V[x] <- (V[x] + kk) mod 256`; VF not written as a flag. -/
def execAddImm (x : Reg) (kk : Byte) (s : State) : Result := .next (s.advance.setV x (s.getV x + kk))

/-- R92: `V[x] <- V[y]`. -/
def execLdReg (x y : Reg) (s : State) : Result := .next (s.advance.setV x (s.getV y))

/-- R93: `V[x] <- V[x] | V[y]`. -/
def execOr (x y : Reg) (s : State) : Result := .next (s.advance.setV x (s.getV x ||| s.getV y))

/-- R94: `V[x] <- V[x] & V[y]`. -/
def execAnd (x y : Reg) (s : State) : Result := .next (s.advance.setV x (s.getV x &&& s.getV y))

/-- R95: `V[x] <- V[x] ^ V[y]`. -/
def execXor (x y : Reg) (s : State) : Result := .next (s.advance.setV x (s.getV x ^^^ s.getV y))

/-- R96: `V[x] <- (V[x] + V[y]) mod 256`, VF the carry. -/
def execAddReg (x y : Reg) (s : State) : Result :=
  .next ((s.advance.setV x (s.getV x + s.getV y)).setFlag (carryOut (s.getV x) (s.getV y)))

/-- R97: `V[x] <- (V[x] - V[y]) mod 256`, VF NOT borrow. -/
def execSubReg (x y : Reg) (s : State) : Result :=
  .next ((s.advance.setV x (s.getV x - s.getV y)).setFlag (noBorrow (s.getV x) (s.getV y)))

/-- R98: `V[x] <- V[x] >> 1`, VF the old bit 0; `y` is decoded and ignored. -/
def execShr (x _y : Reg) (s : State) : Result :=
  .next ((s.advance.setV x (s.getV x >>> 1)).setFlag (bitOutRight (s.getV x)))

/-- R99: `V[x] <- (V[y] - V[x]) mod 256`, VF NOT borrow. -/
def execSubn (x y : Reg) (s : State) : Result :=
  .next ((s.advance.setV x (s.getV y - s.getV x)).setFlag (noBorrow (s.getV y) (s.getV x)))

/-- R100: `V[x] <- (V[x] << 1) mod 256`, VF the old bit 7; `y` is decoded and ignored. -/
def execShl (x _y : Reg) (s : State) : Result :=
  .next ((s.advance.setV x (s.getV x <<< 1)).setFlag (bitOutLeft (s.getV x)))

end Sys2Proof.Machine
end

