-- ==== Sys2Proof/Machine/ControlFlow.lean ====
section
/-!
DEFINITION. 40_control_flow.md: return, jump, call, the skips on register values, the indexed jump. A meaning takes the
state as it is at the fetch (PC the instruction's own address) and makes the advance of R76 itself.
-/

namespace Sys2Proof.Machine

/-- R80: `PC <- Pop()`; `StackFault` underflow only under `STACK_POLICY = fault` with nothing held. -/
def execRet (s : State) : Result :=
  if s.stackEmpty then raise .ret .stackUnderflow s else .next (s.advance.pop.jump s.advance.top)

/-- R81: `PC <- zext_16(nnn)`. -/
def execJp (nnn : Addr12) (s : State) : Result := .next (s.advance.jump (addrOperand nnn))

/-- R82: push the advanced PC, then jump; `StackFault` overflow only under `STACK_POLICY = fault` with 16 held. -/
def execCall (nnn : Addr12) (s : State) : Result :=
  if s.stackFull then raise (.call nnn) .stackOverflow s
  else .next ((s.advance.push s.advance.pc).jump (addrOperand nnn))

/-- R83: skip if `V[x] = kk`. -/
def execSeImm (x : Reg) (kk : Byte) (s : State) : Result := .next (s.advance.skipIf (s.getV x == kk))

/-- R84: skip if `V[x] ≠ kk`. -/
def execSneImm (x : Reg) (kk : Byte) (s : State) : Result := .next (s.advance.skipIf (s.getV x != kk))

/-- R85: skip if `V[x] = V[y]`. -/
def execSeReg (x y : Reg) (s : State) : Result := .next (s.advance.skipIf (s.getV x == s.getV y))

/-- R86: skip if `V[x] ≠ V[y]`. -/
def execSneReg (x y : Reg) (s : State) : Result := .next (s.advance.skipIf (s.getV x != s.getV y))

/-- R87: `PC <- zext_16(nnn) + zext_16(V[0])`, unmasked. -/
def execJpV0 (nnn : Addr12) (s : State) : Result := .next (s.advance.jump (s.indexedTarget nnn))

end Sys2Proof.Machine
end

