-- ==== Sys2Proof/Machine/Index.lean ====
section
/-!
DEFINITION. 42_index_memory.md: writing I, storing and loading through I. None of the last three changes I (D17,
notes/assumptions/19.md).
-/

namespace Sys2Proof.Machine

/-- R105: `I <- zext_16(nnn)`. -/
def execLdI (nnn : Addr12) (s : State) : Result := .next (s.advance.setI (addrOperand nnn))

/-- R106: `I <- (I + V[x]) mod 2^16`; VF is written only under `ADDI_SETS_VF = true`, after I. -/
def execAddI (x : Reg) (s : State) : Result :=
  let newI := s.idx + s.wideV x
  let s1 := s.advance.setI newI
  .next (if s.params.addISetsVF then s1.setFlag (aboveMemory newI) else s1)

/-- R107: `I <- (FONT_BASE + 5 * V[x]) mod 2^16`; no memory access. -/
def execLdFont (x : Reg) (s : State) : Result := .next (s.advance.setI (s.glyphAddr x))

/-- R108: the three decimal digits of `V[x]` at I, I + 1, I + 2. -/
def execLdBcd (x : Reg) (s : State) : Result :=
  accessing (.ldBcd x) 3 s (s.advance.storeBytes s.base (bcdDigits (s.getV x)))

/-- R109: `V[0]`, .., `V[x]` at I, .., I + x. -/
def execLdMemReg (x : Reg) (s : State) : Result :=
  accessing (.ldMemReg x) (x.toNat + 1) s (s.advance.storeBytes s.base (s.regsUpTo x))

/-- R110: `V[0]`, .., `V[x]` from I, .., I + x. -/
def execLdRegMem (x : Reg) (s : State) : Result :=
  accessing (.ldRegMem x) (x.toNat + 1) s (s.advance.loadRegs s.base x.toNat)

end Sys2Proof.Machine
end

