-- ==== Sys2Proof/Machine/Io.lean ====
section
/-!
DEFINITION. 44_io.md: the six instructions that talk to the environment. Its answers to this step are `env` (R34); a
command is `emit` (R35). (The key-wait step is `State.keyWait`.)
-/

namespace Sys2Proof.Machine

/-- R120: `emit DisplayClear`; nothing else. -/
def execCls (s : State) : Result := .next (s.advance.emit .displayClear)

/-- R121: `V[x] <- env.rand & kk`, the byte a free answer (D21, notes/assumptions/22.md). -/
def execRnd (x : Reg) (kk : Byte) (s : State) : Result := .next (s.advance.setV x (s.env.rand &&& kk))

/-- R122: hand the display the sprite at I and the coordinates `V[x]`, `V[y]` (old values), then VF is its answer
(notes/assumptions/21.md). -/
def execDrw (x y : Reg) (n : Nibble) (s : State) : Result :=
  accessing (.drw x y n) n.toNat s
    ((s.advance.emit (.displayDraw (s.getV x) (s.getV y) (s.bytesAt s.base n.toNat))).setFlag
      (collisionAnswer n s.env))

/-- R123: skip if the key that the VALUE of `V[x]` names is down; `KeyRangeFault` above 15 (notes/assumptions/17.md). -/
def execSkp (x : Reg) (s : State) : Result :=
  if 15 < (s.getV x).toNat then raise (.skp x) (.keyRange (s.getV x)) s
  else .next (s.advance.skipIf (s.keyHeld (s.getV x)))

/-- R124: skip if that key is up; `KeyRangeFault` above 15. -/
def execSknp (x : Reg) (s : State) : Result :=
  if 15 < (s.getV x).toNat then raise (.sknp x) (.keyRange (s.getV x)) s
  else .next (s.advance.skipIf (!s.keyHeld (s.getV x)))

/-- R125: arm the key wait; `V[x]` is written by the later step that finds a key (R126). -/
def execLdRegKey (x : Reg) (s : State) : Result := .next { s.advance with wait := true, waitReg := x }

end Sys2Proof.Machine
end

