-- ==== Sys2Proof/Machine/Timers.lean ====
section
/-!
DEFINITION. 43_timers.md: the three instructions that read or write the timers. (`Tick` is `State.tickTimers`.)
-/

namespace Sys2Proof.Machine

/-- R115: `V[x] <- DT`. -/
def execLdRegDt (x : Reg) (s : State) : Result := .next (s.advance.setV x s.dt)

/-- R116: `DT <- V[x]`. -/
def execLdDtReg (x : Reg) (s : State) : Result := .next (s.advance.setDt (s.getV x))

/-- R117: `ST <- V[x]`. -/
def execLdStReg (x : Reg) (s : State) : Result := .next (s.advance.setSt (s.getV x))

end Sys2Proof.Machine
end

