-- ==== Sys2Proof/Machine/Events.lean ====
section
/-!
DEFINITION. The `Step` event (40_control_flow.md rule R76) with the two checks that come first (10_state.md rules R30,
R31), and the choice of the next event (00_scope.md rule R8).
-/

namespace Sys2Proof.Machine

/-- Steps (1) to (4) of R76 for a machine that is neither halted nor waiting: fetch, decode, advance and execute. A fault
of the fetch has no word to record (R136); an invalid word is a `DecodeFault` before anything is written (R131). -/
def fetchExecute (s : State) : Result :=
  match s.fetchWord with
  | .error a => .next (s.latch (.memory a) none)
  | .ok w =>
    match decode w with
    | .error _ => .next (s.latch .decode (some w))
    | .ok i => exec i s

/-- `Step(env)` of R76. A latched fault makes it do nothing (R137); a key wait makes it the step of R126. -/
def stepEvent (env : Env) (s : State) : Result :=
  let s1 := { s with env := env }
  if s1.fault.isSome then .next s1
  else if s1.wait then .next s1.keyWait
  else fetchExecute s1

/-- One event (R8). -/
def applyEvent (e : Event) (s : State) : Result :=
  match e with
  | .reset => .next s.resetCore
  | .step env => stepEvent env s
  | .tick => .next s.tickTimers

/-- The event the environment raises next: the first of the agenda; with none left, a free event (R8, R119,
notes/assumptions/4.md). -/
def State.nextEvent (s : State) : Event :=
  match s.agenda with
  | [] => freeEvent s.draws
  | e :: _ => e

/-- The state once the environment has raised that event: the agenda shorter by it, or one more free event drawn. -/
def State.takeEvent (s : State) : State :=
  match s.agenda with
  | [] => { s with draws := s.draws + 1 }
  | _ :: rest => { s with agenda := rest }

end Sys2Proof.Machine
end

