-- ==== Sys2Proof/Machine/Step.lean ====
section
/-! DEFINITION. The machine's one transition: the next event, taken atomically (00_scope.md rule R8). -/

namespace Sys2Proof.Machine

/-- One transition: the environment raises its next event and the machine takes it. -/
def step (s : State) : Host.Outcome State Fault Refusal := applyEvent s.nextEvent s.takeEvent

/-- `s` with the opcode-table word `w` stored where the next step fetches, so that the next step runs it. -/
def State.withFetchWord (s : State) (nbits w : Nat) : State := s.loadWord (BitVec.ofNat 16 (w % 2 ^ nbits))

end Sys2Proof.Machine
end

