-- ==== Sys2Proof/Safety.lean ====
section
/-!
DEFINITION. The terms in which claims are stated: what a safe run is (60_exceptions.md rule R137), the invariant every
event keeps, and what an instruction leaves unchanged (40_control_flow.md rule R78).
-/

namespace Sys2Proof.Machine

/-- No fault is latched (R31). A claim about a program takes this throughout as something to prove (R137). -/
def State.running (s : State) : Prop := s.fault = none

/-- The machine takes `n` events from `s` and no fault is latched before, during or after them (R137). -/
def safeFor : Nat → State → Prop
  | 0, s => s.running
  | n + 1, s => s.running ∧ ∃ t, step s = .next t ∧ safeFor n t

/-- The parameters are ones R4 allows: the 80 font bytes fit memory, and the memory image is in canonical form. -/
def Params.ok (p : Params) : Prop := p.fontBase.toNat + 80 ≤ 4096 ∧ Memory.wf p.initMem = true

/-- The default parameters of R4, for any `FONT_BASE` and `INIT_MEM`. -/
def Params.isDefault (p : Params) : Prop := p.memPolicy = .mask ∧ p.stackPolicy = .wrap ∧ p.addISetsVF = false

/-- `DEPTH` (R27): unused and 0 under the policy `wrap`; under `fault` at most 16, and SP is its low four bits. -/
def State.depthOk (s : State) : Prop :=
  match s.params.stackPolicy with
  | .wrap => s.depth = 0
  | .fault => s.depth ≤ 16 ∧ s.sp.toNat = s.depth % 16

/-- The word of a record is the encoding of one of the instructions that can raise its cause (R130, R138). -/
def FaultRecord.justified (r : FaultRecord) (s : State) : Prop :=
  match r.cause with
  | .decode => ∃ w e, r.word = some w ∧ decode w = .error e
  | .memory a => s.params.memPolicy = .fault ∧ 4095 < a ∧
      (r.word = none ∨ ∃ i, r.word = some (encode i) ∧
        (i.mnemonic = .drw ∨ i.mnemonic = .ldBcd ∨ i.mnemonic = .ldMemReg ∨ i.mnemonic = .ldRegMem))
  | .stackOverflow => s.params.stackPolicy = .fault ∧ s.depth = 16 ∧ ∃ nnn, r.word = some (encode (.call nnn))
  | .stackUnderflow => s.params.stackPolicy = .fault ∧ s.depth = 0 ∧ r.word = some (encode .ret)
  | .keyRange k => 15 < k.toNat ∧ ∃ x, s.getV x = k ∧
      (r.word = some (encode (.skp x)) ∨ r.word = some (encode (.sknp x)))

/-- A latched fault (R135, R137): the machine was not waiting, PC still is the address recorded, and the state still
shows the reason recorded, because nothing but a `Tick` has happened since. -/
def State.faultOk (s : State) : Prop :=
  ∀ r, s.fault = some r → s.wait = false ∧ r.pc = s.pc ∧ r.justified s

/-- The invariant every event keeps. -/
structure State.Inv (s : State) : Prop where
  /-- Memory is in canonical form: 4096 cells (R29), each listed at most once. -/
  mem : Memory.wf s.mem = true
  /-- The parameters are allowed ones (R4). -/
  params : Params.ok s.params
  /-- The stack counter agrees with the stack pointer (R27). -/
  depth : s.depthOk
  /-- A latched fault is precise and justified (R135). -/
  fault : s.faultOk

/-- Everything but the V registers and PC is as it was: I, the stack, the timers, memory, the key wait, the fault latch,
the parameters, and what the environment holds. -/
def sameButRegs (s t : State) : Prop := { t with v := s.v, pc := s.pc } = s

/-- Everything but memory and PC is as it was. -/
def sameButMem (s t : State) : Prop := { t with mem := s.mem, pc := s.pc } = s

/-- The V registers outside `rs` keep their values. -/
def keepsRegs (rs : List Reg) (s t : State) : Prop := ∀ r, r ∉ rs → t.getV r = s.getV r

/-- Every byte of memory outside the indices `as` reads as before. -/
def keepsBytes (as : List Nat) (s t : State) : Prop := ∀ a, memIndex a ∉ as → t.readByte a = s.readByte a

/-- The state a raised fault leaves: the state before the instruction, with the record latched (R135). -/
def latched (s : State) (c : FaultCause) (w : Option Word) : State :=
  { s with fault := some { cause := c, pc := s.pc, word := w } }

/-- The instructions that read an answer of the environment (R34): the entropy source, the display sink, the key states.
`Cls` only emits a command, and `LdRegKey` only arms the wait. -/
def asksEnv (i : Instr) : Bool :=
  match i.mnemonic with
  | .rnd | .drw | .skp | .sknp => true
  | _ => false

/-- The six instructions that write VF as a flag (R21). -/
def writesFlag (i : Instr) : Bool :=
  match i.mnemonic with
  | .addReg | .subReg | .shr | .subn | .shl | .drw => true
  | _ => false

/-- The registers an instruction writes as its destination, from the table of R20 and the instruction rules. -/
def destRegs (i : Instr) : List Reg :=
  match i with
  | .ldImm x _ | .addImm x _ | .ldReg x _ | .or x _ | .and x _ | .xor x _ | .addReg x _ | .subReg x _ | .shr x _
  | .subn x _ | .shl x _ | .rnd x _ | .ldRegDt x => [x]
  | .ldRegMem x => (List.range (x.toNat + 1)).map (BitVec.ofNat 4)
  | _ => []

/-- The instructions that set PC to a target (R24). -/
def isJump (i : Instr) : Bool :=
  match i.mnemonic with
  | .ret | .jp | .call | .jpV0 => true
  | _ => false

/-- The six skips (R24, R88). -/
def isSkip (i : Instr) : Bool :=
  match i.mnemonic with
  | .seImm | .sneImm | .seReg | .sneReg | .skp | .sknp => true
  | _ => false

/-- Push the values of a list in order, by the primitive that does not check (R27). What R27 says of a push holds of each
of these where no push meets a full stack: under the policy `wrap`, or with room for all of them under `fault`. -/
def pushAll (vs : List Word) (s : State) : State := vs.foldl State.push s

/-- Pop `n` values, by the primitive that does not check: the values in the order they come, and the state after (R27). -/
def popAll : Nat → State → List Word × State
  | 0, s => ([], s)
  | n + 1, s => (s.top :: (popAll n s.pop).1, (popAll n s.pop).2)

end Sys2Proof.Machine
end

