-- ==== Sys2Proof/Certificates/Slice0/Obligations.lean ====
section
/-!
DEFINITION. The statements for the provers. Each says what an instruction or the machine does, in the terms of
Safety.lean; OBLIGATIONS.json gives each its rule or section of the spec. A statement about `exec i s` takes `s` as it
is at the fetch, PC the instruction's own address.
-/

open Sys2Proof Sys2Proof.Machine

/-- State.reset has PC = 0x0200 (the source's value), every V register, I, SP, every stack entry, DEPTH, DT, ST zero,
WAIT clear, WAITREG 0, FAULT none, memory the image INIT_MEM and the default policies. All values but PC are the
spec's own decisions, as its rule R36 marks them: D7 for the zeros (WAIT also D10), D3 for DEPTH, D14 for FAULT;
the default policies are R4's (mask D2, wrap D3, ADDI_SETS_VF false D16), and that State.reset carries them is the
model's choice (log entry 1); that reset's INIT_MEM lists nothing is the model's choice (log entry 3), and the
statement says only that memory is that image. (10_state.md section 11, 70_reset_and_hazards.md section 1,
00_scope.md section 3, 92_eei_decisions.md D2, D3, D7, D10, D14, D16) -/
def Obligations.ResetLeavesTheStatedValues : Prop :=
  State.reset.pc = 0x0200 ∧ (∀ r, State.reset.getV r = 0) ∧ State.reset.idx = 0 ∧ State.reset.sp = 0 ∧
    (∀ j : Fin 16, State.reset.stack[j] = 0) ∧ State.reset.depth = 0 ∧ State.reset.dt = 0 ∧ State.reset.st = 0 ∧
    State.reset.wait = false ∧ State.reset.waitReg = 0 ∧ State.reset.fault = none ∧
    State.reset.mem = State.reset.params.initMem ∧ Params.isDefault State.reset.params

/-- From every state the event Reset answers a next state with PC = 0x0200, all V registers, I, SP, stack entries,
DEPTH, DT and ST zero, WAIT clear, WAITREG 0, FAULT none and memory the image INIT_MEM; the parameters and what
belongs to the environment stay. The values but PC are the spec's own decisions, as its rule R36 marks them (D7,
DEPTH D3, WAIT also D10, FAULT D14). That the parameters, the answers, the agenda, the count of draws and the
commands handed out survive a Reset is the model's choice and no rule of the spec (log entries 1 and 24).
(70_reset_and_hazards.md section 1, 10_state.md section 11, 92_eei_decisions.md D3, D7, D10, D14) -/
def Obligations.ResetEventResetsEveryPieceOfState : Prop :=
  ∀ s : State, ∃ t, applyEvent .reset s = .next t ∧
    t.pc = 0x0200 ∧ (∀ r, t.getV r = 0) ∧ t.idx = 0 ∧ t.sp = 0 ∧ (∀ j : Fin 16, t.stack[j] = 0) ∧ t.depth = 0 ∧
    t.dt = 0 ∧ t.st = 0 ∧ t.wait = false ∧ t.waitReg = 0 ∧ t.fault = none ∧ t.mem = s.params.initMem ∧
    t.params = s.params ∧ t.env = s.env ∧ t.agenda = s.agenda ∧ t.draws = s.draws ∧ t.out = s.out

/-- State.boot p meets Inv for all parameters p that R4 allows (FONT_BASE + 80 at most 4096, a canonical memory
image), and so does State.reset. Inv is the model's invariant (Safety.lean): canonical memory, allowed parameters,
DEPTH agreeing with SP, a latched fault precise and justified. (10_state.md section 11, 00_scope.md section 3) -/
def Obligations.BootMeetsTheInvariant : Prop :=
  (∀ p : Params, Params.ok p → (State.boot p).Inv) ∧ State.reset.Inv

/-- For every state s with Inv s, if step s answers next t then Inv t: memory stays canonical with all addresses below
4096, the parameters stay allowed ones, DEPTH is 0 under the wrap policy and at most 16 with SP its low four bits
under the fault policy, and a latched fault record names the PC still held, a word that can raise it, and a reason
the state still shows. The clauses on DEPTH rest on the spec's decisions D3 and D4 (log entry 13), those on the
latched record, precise and held in the state, on its decisions D12 and D14 (log entries 11, 10); that the
environment's events come from the agenda or are free is the model's choice (log entry 4). (10_state.md sections
5, 7, 8, 20_memory.md section 1, 60_exceptions.md section 2, 92_eei_decisions.md D3, D4, D12, D14) -/
def Obligations.EveryStepKeepsTheInvariant : Prop :=
  ∀ s t : State, s.Inv → step s = .next t → t.Inv

/-- For every state, step answers a next state, and for every instruction and state exec answers a next state: every
fault of the hardware is a latched record in the state and the machine goes on accepting events (the spec's
decision D14, log entry 10). (40_control_flow.md section 1, 60_exceptions.md section 2, 92_eei_decisions.md D14) -/
def Obligations.EveryTransitionAnswersANextState : Prop :=
  (∀ s : State, ∃ t, step s = .next t) ∧ ∀ (i : Instr) (s : State), ∃ t, exec i s = .next t

/-- For every state s and answers env: with a fault latched Step changes nothing but the answers held; with none
latched and WAIT set it is the key-wait step; otherwise, when the fetch gives w: if w decodes to i the step is
exec i on s (which itself makes the advance by 2), if w is invalid it latches DecodeFault with the address and the
word; when the fetch faults at address a it latches MemoryFault with no word. step itself, when the environment's
next event is Step(env), is that on the state with the event taken off the agenda. The two checks that come first
rest on the spec's decisions D10, D14, the record without a word on D12. The last clause (the agenda, the count of
draws) renders rule R8's events by the model's own choice (log entry 4). (40_control_flow.md section 1,
10_state.md section 8, 60_exceptions.md section 2, 00_scope.md section 5, 92_eei_decisions.md D10, D12, D14) -/
def Obligations.StepRunsTheDecodedInstruction : Prop :=
  (∀ (env : Env) (s : State), s.fault.isSome = true → stepEvent env s = .next { s with env := env }) ∧
  (∀ (env : Env) (s : State), s.fault = none → s.wait = true →
    stepEvent env s = .next (State.keyWait { s with env := env })) ∧
  (∀ (env : Env) (s : State) (w : Word), s.fault = none → s.wait = false → s.fetchWord = .ok w →
    (∀ i, decode w = .ok i → stepEvent env s = exec i { s with env := env }) ∧
    (∀ e, decode w = .error e →
      stepEvent env s = .next { s with env := env, fault := some { cause := .decode, pc := s.pc, word := some w } })) ∧
  (∀ (env : Env) (s : State) (a : Nat), s.fault = none → s.wait = false → s.fetchWord = .error a →
    stepEvent env s = .next { s with env := env, fault := some { cause := .memory a, pc := s.pc, word := none } }) ∧
  (∀ (env : Env) (s : State), s.nextEvent = .step env →
    step s = stepEvent env { s with agenda := s.takeEvent.agenda, draws := s.takeEvent.draws })

/-- Under the mask policy, or with PC + 1 at most 4095 under the fault policy, the fetch gives the word whose high
byte is the memory byte at PC mod 4096 and whose low byte is the one at (PC + 1) mod 4096. That the mask policy is
the default is the spec's decision D2. (20_memory.md sections 2, 3, 92_eei_decisions.md D2) -/
def Obligations.FetchIsBigEndianThroughTheMask : Prop :=
  ∀ s : State, s.params.memPolicy = .mask ∨ s.pc.toNat + 1 ≤ 4095 →
    ∃ w, s.fetchWord = .ok w ∧
      w.toNat = 256 * (Memory.read s.mem (s.pc.toNat % 4096)).toNat +
        (Memory.read s.mem ((s.pc.toNat + 1) % 4096)).toNat

/-- For every state s and every 16-bit word number w that decodes to i, the next event of s.withFetchWord 16 w is some
Step(env), and step of it is exec i of it with that event taken and the answers env held. withFetchWord stands for
the program loader (log entry 6). (70_reset_and_hazards.md section 2, 40_control_flow.md section 1) -/
def Obligations.WithFetchWordRunsThatWord : Prop :=
  ∀ (s : State) (w : Nat) (i : Instr), w < 65536 → decodeTableWord 16 w = some i →
    ∃ env, (s.withFetchWord 16 w).nextEvent = .step env ∧
      step (s.withFetchWord 16 w) = exec i { (s.withFetchWord 16 w).takeEvent with env := env }

/-- For every instruction i with every value of its fields, decode (encode i) is i; and for every 16-bit word w that
decodes to i, encode i is w: encode and decode are inverse bijections between instructions and valid words. Rule
R74 marks this stronger form as derived; eight F-family low bytes are from the spec's general knowledge (G1).
(30_encoding.md section 4, 93_implementation_defined.md G1) -/
def Obligations.DecodeAndEncodeAreInverse : Prop :=
  (∀ i : Instr, decode (encode i) = .ok i) ∧ ∀ (w : Word) (i : Instr), decode w = .ok i → encode i = w

/-- For every word w: if decode w is instruction i then the rows of the 34-row map of masks and matches that select w
are exactly one, the row of i's mnemonic; if decode w is invalid, no row selects w. So the two-level decoder and
the flat table agree and no word matches two rows (the spec marks disjointness as derived). (30_encoding.md
section 2, 93_implementation_defined.md G1) -/
def Obligations.DecodeAgreesWithTheOpcodeMap : Prop :=
  ∀ w : Word,
    (∀ i, decode w = .ok i → (opcodeMap.filter fun r => r.selects w).map OpcodeRow.mnemonic = [i.mnemonic]) ∧
    (∀ e, decode w = .error e → opcodeMap.filter (fun r => r.selects w) = [])

/-- For every word w with nibbles op, x, y, n and low byte kk: decode w is an error iff op = 0 and w is neither 0x00E0
nor 0x00EE, or op is 5 or 9 and n is not 0, or op = 8 and n is one of 8, 9, A, B, C, D, F, or op = E and kk is
neither 9E nor A1, or op = F and kk is none of the nine listed. The exact words of family 0 are the spec's
decision D5 and the F bytes its general knowledge G1. (30_encoding.md section 3, 92_eei_decisions.md D5, D6) -/
def Obligations.InvalidWordsAreExactlyThoseListed : Prop :=
  ∀ w : Word, (∃ e, decode w = .error e) ↔
    (opOf w = 0x0 ∧ w ≠ 0x00E0 ∧ w ≠ 0x00EE) ∨ (opOf w = 0x5 ∧ nOf w ≠ 0) ∨ (opOf w = 0x9 ∧ nOf w ≠ 0) ∨
    (opOf w = 0x8 ∧ nOf w ∈ [0x8#4, 0x9, 0xA, 0xB, 0xC, 0xD, 0xF]) ∨
    (opOf w = 0xE ∧ kkOf w ∉ [0x9E#8, 0xA1]) ∨
    (opOf w = 0xF ∧ kkOf w ∉ [0x07#8, 0x0A, 0x15, 0x18, 0x1E, 0x29, 0x33, 0x55, 0x65])

/-- 0x00E0, 0x00EE, 0x1ABC, 0x3A5C, 0x5AB0, 0x8ABE, 0xDAB7, 0xEAA1, 0xFA29 decode to Cls, Ret, Jp(0xABC), SeImm(10,
0x5C), SeReg(10, 11), Shl(10, 11), Drw(10, 11, 7), Sknp(10), LdFont(10), and 0x0000, 0x8AB8 are rejected by
family: the spec's vectors S2 and V-DEC. (30_encoding.md section 2, 95_test_vectors.md S2, V-DEC) -/
def Obligations.SampleWordsDecodeAsTheSpecSays : Prop :=
  decode 0x00E0 = .ok .cls ∧ decode 0x00EE = .ok .ret ∧ decode 0x1ABC = .ok (.jp 0xABC) ∧
    decode 0x3A5C = .ok (.seImm 10 0x5C) ∧ decode 0x5AB0 = .ok (.seReg 10 11) ∧ decode 0x8ABE = .ok (.shl 10 11) ∧
    decode 0xDAB7 = .ok (.drw 10 11 7) ∧ decode 0xEAA1 = .ok (.sknp 10) ∧ decode 0xFA29 = .ok (.ldFont 10) ∧
    decode 0x0000 = .error .family0 ∧ decode 0x8AB8 = .error .family8

/-- The word 1nnn decodes to Jp(nnn), and in every state executing it answers the next state that differs only in PC,
which is nnn zero-extended; any target is legal, odd ones included. (R81) -/
def Obligations.JpSetsPcToItsAddress : Prop :=
  ∀ (nnn : Addr12) (s : State), decode (0x1#4 ++ nnn) = .ok (.jp nnn) ∧
    exec (.jp nnn) s = .next { s with pc := nnn.setWidth 16 }

/-- The word 2nnn decodes to Call(nnn). In every state, unless the stack policy is fault and DEPTH is 16, executing it
answers the state with STACK[SP] = PC + 2 (unmasked), SP one more modulo 16, PC = nnn, DEPTH one more only under
the fault policy, all else unchanged; with the fault policy and DEPTH = 16 it latches StackFault overflow and
changes nothing else. The write-then-increment convention is the spec's decision D4, the policy D3 (log entry 13);
that an overflow leaves everything else as it was, PC included, is its decision D12 (rule R135, log entry 11).
(40_control_flow.md section 2, 10_state.md section 5, 60_exceptions.md section 2, 92_eei_decisions.md D3, D4, D12) -/
def Obligations.CallPushesTheAdvancedPcAndJumps : Prop :=
  ∀ (nnn : Addr12) (s : State), decode (0x2#4 ++ nnn) = .ok (.call nnn) ∧
    (¬(s.params.stackPolicy = .fault ∧ s.depth = 16) →
      exec (.call nnn) s = .next { s with
        pc := nnn.setWidth 16
        stack := s.stack.set s.sp.toNat (s.pc + 2) s.sp.isLt
        sp := s.sp + 1
        depth := if s.params.stackPolicy = .fault then s.depth + 1 else s.depth }) ∧
    (s.params.stackPolicy = .fault ∧ s.depth = 16 →
      exec (.call nnn) s = .next (latched s .stackOverflow (some (0x2#4 ++ nnn))))

/-- The word 0x00EE decodes to Ret. In every state, unless the stack policy is fault and DEPTH is 0, executing it
answers the state with SP one less modulo 16 and PC the entry at the new SP, DEPTH one less only under the fault
policy, all else unchanged, the entry left in place; with the fault policy and DEPTH = 0 it latches StackFault
underflow and changes nothing else. The convention is the spec's decision D4, the policy D3 (log entry 13); that
an underflow leaves everything else as it was, PC included, is its decision D12 (rule R135, log entry 11).
(40_control_flow.md section 2, 10_state.md section 5, 60_exceptions.md section 2, 92_eei_decisions.md D3, D4, D12) -/
def Obligations.RetPopsPc : Prop :=
  ∀ s : State, decode 0x00EE = .ok .ret ∧
    (¬(s.params.stackPolicy = .fault ∧ s.depth = 0) →
      exec .ret s = .next { s with
        pc := s.stack[(s.sp - 1).toNat]'(s.sp - 1).isLt
        sp := s.sp - 1
        depth := if s.params.stackPolicy = .fault then s.depth - 1 else s.depth }) ∧
    (s.params.stackPolicy = .fault ∧ s.depth = 0 →
      exec .ret s = .next (latched s .stackUnderflow (some 0x00EE)))

/-- For every state in which a call does not overflow: the call answers t, and a return from t, whatever PC the
subroutine has reached, answers a state whose PC is the call's address plus 2, whose SP and DEPTH are those before
the call, and whose registers, memory, timers and fault latch are unchanged (the source's scenario of section 8).
(95_test_vectors.md S7, 40_control_flow.md section 2) -/
def Obligations.CallThenRetResumesAfterTheCall : Prop :=
  ∀ (nnn : Addr12) (s : State) (here : Word), ¬(s.params.stackPolicy = .fault ∧ s.depth = 16) →
    ∃ t u, exec (.call nnn) s = .next t ∧ exec .ret { t with pc := here } = .next u ∧ u.pc = s.pc + 2 ∧
      { u with pc := s.pc, stack := s.stack } = s

/-- For every list of at most 16 values, under the wrap policy, or under either policy when DEPTH plus their number is
at most 16 (so that no push meets a full stack): pushing them all and then popping as many returns them in reverse
order and leaves SP where it was. Under the wrap policy, from SP = 0, after seventeen pushes slot 0 holds the
seventeenth value and SP is 1. Under the fault policy, from DEPTH = 0, after sixteen pushes DEPTH is 16 and a Call
then answers the state it started from with StackFault overflow latched, all else, the stack, SP, DEPTH and PC
included, as it was. The policies are the spec's decision D3, the convention D4, the precise fault D12 (log
entries 11, 13). (10_state.md section 5, 95_test_vectors.md S4, 60_exceptions.md sections 1, 2,
92_eei_decisions.md D3, D4, D12) -/
def Obligations.PushesAndPopsAreLifo : Prop :=
  (∀ (vs : List Word) (s : State), vs.length ≤ 16 →
    (s.params.stackPolicy = .wrap ∨ s.depth + vs.length ≤ 16) →
    (popAll vs.length (pushAll vs s)).1 = vs.reverse ∧ (popAll vs.length (pushAll vs s)).2.sp = s.sp) ∧
  (∀ (vs : List Word) (a : Word) (s : State), s.params.stackPolicy = .wrap → vs.length = 16 → s.sp = 0 →
    (pushAll (vs ++ [a]) s).stack[0] = a ∧ (pushAll (vs ++ [a]) s).sp = 1) ∧
  (∀ (vs : List Word) (nnn : Addr12) (s : State), s.params.stackPolicy = .fault → vs.length = 16 → s.depth = 0 →
    (pushAll vs s).depth = 16 ∧
    ∃ t, exec (.call nnn) (pushAll vs s) = .next t ∧
      t.fault = some { cause := .stackOverflow, pc := s.pc, word := some (0x2#4 ++ nnn) } ∧
      t.stack = (pushAll vs s).stack ∧ t.sp = s.sp ∧ t.depth = 16 ∧ t.pc = s.pc ∧
      { t with fault := s.fault } = pushAll vs s)

/-- The words 3xkk, 4xkk, 5xy0, 9xy0 decode to SeImm, SneImm, SeReg, SneReg, and in every state executing each answers
the state that differs only in PC: PC + 4 when V[x] = kk, V[x] is not kk, V[x] = V[y], V[x] is not V[y]
respectively, and PC + 2 otherwise. The effects are rules R83 to R86; that the y of 5xy0 and 9xy0 is nibble1 the
spec derives (rule R61, D24, log entry 28). (40_control_flow.md section 3, 30_encoding.md sections 1, 2,
92_eei_decisions.md D24) -/
def Obligations.RegisterSkipsCompareAndSkip : Prop :=
  ∀ (x y : Reg) (kk : Byte) (s : State),
    decode (0x3#4 ++ x ++ kk) = .ok (.seImm x kk) ∧ decode (0x4#4 ++ x ++ kk) = .ok (.sneImm x kk) ∧
    decode (0x5#4 ++ x ++ y ++ 0x0#4) = .ok (.seReg x y) ∧ decode (0x9#4 ++ x ++ y ++ 0x0#4) = .ok (.sneReg x y) ∧
    exec (.seImm x kk) s = .next { s with pc := if s.getV x = kk then s.pc + 4 else s.pc + 2 } ∧
    exec (.sneImm x kk) s = .next { s with pc := if s.getV x = kk then s.pc + 2 else s.pc + 4 } ∧
    exec (.seReg x y) s = .next { s with pc := if s.getV x = s.getV y then s.pc + 4 else s.pc + 2 } ∧
    exec (.sneReg x y) s = .next { s with pc := if s.getV x = s.getV y then s.pc + 2 else s.pc + 4 }

/-- The word Bnnn decodes to JpV0(nnn), and in every state executing it answers a state that differs only in PC, whose
value as a number is exactly nnn plus the value of V0. (40_control_flow.md section 4) -/
def Obligations.JpV0AddsV0Unmasked : Prop :=
  ∀ (nnn : Addr12) (s : State), decode (0xB#4 ++ nnn) = .ok (.jpV0 nnn) ∧
    ∃ t, exec (.jpV0 nnn) s = .next t ∧ t.pc.toNat = nnn.toNat + (s.getV 0).toNat ∧ { t with pc := s.pc } = s

/-- The words 6xkk, 7xkk decode to LdImm(x, kk), AddImm(x, kk). In every state each answers a next state with PC + 2
in which only V[x] has changed: to kk, and to (V[x] + kk) mod 256. (R90, R91) -/
def Obligations.ImmediatesLoadAndAdd : Prop :=
  ∀ (x : Reg) (kk : Byte) (s : State),
    decode (0x6#4 ++ x ++ kk) = .ok (.ldImm x kk) ∧ decode (0x7#4 ++ x ++ kk) = .ok (.addImm x kk) ∧
    (∃ t, exec (.ldImm x kk) s = .next t ∧ t.getV x = kk ∧ keepsRegs [x] s t ∧ t.pc = s.pc + 2 ∧ sameButRegs s t) ∧
    (∃ t, exec (.addImm x kk) s = .next t ∧ (t.getV x).toNat = ((s.getV x).toNat + kk.toNat) % 256 ∧
      keepsRegs [x] s t ∧ t.pc = s.pc + 2 ∧ sameButRegs s t)

/-- The words 8xy0, 8xy1, 8xy2, 8xy3 decode to LdReg, Or, And, Xor. In every state each answers a next state with PC +
2 in which only V[x] has changed: it is V[y], or has each bit the OR, the AND, the exclusive OR of the two old
bits. The effects are rules R92 to R95, LdReg being a move by conflict C10; the pairing of family-8 selectors with
operations and the place of y the spec derives (rules R68, R61, D24, log entry 28). (41_alu.md section 2,
30_encoding.md sections 1, 2, 90_conflicts.md C10, 92_eei_decisions.md D24) -/
def Obligations.MoveAndLogicWriteOnlyTheirDestination : Prop :=
  ∀ (x y : Reg) (s : State),
    decode (0x8#4 ++ x ++ y ++ 0x0#4) = .ok (.ldReg x y) ∧ decode (0x8#4 ++ x ++ y ++ 0x1#4) = .ok (.or x y) ∧
    decode (0x8#4 ++ x ++ y ++ 0x2#4) = .ok (.and x y) ∧ decode (0x8#4 ++ x ++ y ++ 0x3#4) = .ok (.xor x y) ∧
    (∃ t, exec (.ldReg x y) s = .next t ∧ t.getV x = s.getV y ∧
      keepsRegs [x] s t ∧ t.pc = s.pc + 2 ∧ sameButRegs s t) ∧
    (∃ t, exec (.or x y) s = .next t ∧
      (∀ j < 8, (t.getV x).getLsbD j = ((s.getV x).getLsbD j || (s.getV y).getLsbD j)) ∧
      keepsRegs [x] s t ∧ t.pc = s.pc + 2 ∧ sameButRegs s t) ∧
    (∃ t, exec (.and x y) s = .next t ∧
      (∀ j < 8, (t.getV x).getLsbD j = ((s.getV x).getLsbD j && (s.getV y).getLsbD j)) ∧
      keepsRegs [x] s t ∧ t.pc = s.pc + 2 ∧ sameButRegs s t) ∧
    (∃ t, exec (.xor x y) s = .next t ∧
      (∀ j < 8, (t.getV x).getLsbD j = ((s.getV x).getLsbD j).xor ((s.getV y).getLsbD j)) ∧
      keepsRegs [x] s t ∧ t.pc = s.pc + 2 ∧ sameButRegs s t)

/-- The word 8xy4 decodes to AddReg(x, y). In every state it answers a next state with PC + 2 in which, from the old
values of V[x] and V[y]: V[x] is the sum mod 256 unless x is 15, VF is 1 if the sum exceeds 255 and else 0 (so
with x = 15 VF ends as the carry), and nothing else has changed. The effect is rule R96; the pairing of family-8
selectors with operations and the place of y the spec derives (rules R68, R61, D24, log entry 28). (41_alu.md
section 3, 10_state.md section 2, 30_encoding.md sections 1, 2, 92_eei_decisions.md D24) -/
def Obligations.AddRegSumsAndCarries : Prop :=
  ∀ (x y : Reg) (s : State), decode (0x8#4 ++ x ++ y ++ 0x4#4) = .ok (.addReg x y) ∧
    ∃ t, exec (.addReg x y) s = .next t ∧
      (x ≠ VF → (t.getV x).toNat = ((s.getV x).toNat + (s.getV y).toNat) % 256) ∧
      t.getV VF = (if 255 < (s.getV x).toNat + (s.getV y).toNat then 1 else 0) ∧
      keepsRegs [x, VF] s t ∧ t.pc = s.pc + 2 ∧ sameButRegs s t

/-- The word 8xy5 decodes to SubReg(x, y). In every state it answers a next state with PC + 2 in which V[x] is (V[x] -
V[y]) mod 256 unless x is 15, VF is 1 if the old V[x] is at least the old V[y] and else 0, and nothing else has
changed. The effect is rule R97; the pairing of family-8 selectors with operations and the place of y the spec
derives (rules R68, R61, D24, log entry 28). (41_alu.md section 3, 10_state.md section 2, 30_encoding.md sections
1, 2, 92_eei_decisions.md D24) -/
def Obligations.SubRegSubtractsAndFlagsNoBorrow : Prop :=
  ∀ (x y : Reg) (s : State), decode (0x8#4 ++ x ++ y ++ 0x5#4) = .ok (.subReg x y) ∧
    ∃ t, exec (.subReg x y) s = .next t ∧
      (x ≠ VF → (t.getV x).toNat = ((s.getV x).toNat + 256 - (s.getV y).toNat) % 256) ∧
      t.getV VF = (if (s.getV y).toNat ≤ (s.getV x).toNat then 1 else 0) ∧
      keepsRegs [x, VF] s t ∧ t.pc = s.pc + 2 ∧ sameButRegs s t

/-- The word 8xy6 decodes to Shr(x, y). In every state it answers a next state with PC + 2, the same for every y, in
which V[x] is the old V[x] divided by 2 rounded down unless x is 15, VF is the old bit 0 of V[x], and nothing else
has changed. The effect is rule R98; the pairing of family-8 selectors with operations and the place of y the spec
derives (rules R68, R61, D24, log entry 28). (41_alu.md section 3, 10_state.md section 2, 30_encoding.md sections
1, 2, 92_eei_decisions.md D24) -/
def Obligations.ShrShiftsRightIgnoringY : Prop :=
  ∀ (x y : Reg) (s : State), decode (0x8#4 ++ x ++ y ++ 0x6#4) = .ok (.shr x y) ∧
    ∃ t, exec (.shr x y) s = .next t ∧ (∀ z, exec (.shr x z) s = .next t) ∧
      (x ≠ VF → (t.getV x).toNat = (s.getV x).toNat / 2) ∧
      t.getV VF = (if (s.getV x).toNat % 2 = 1 then 1 else 0) ∧
      keepsRegs [x, VF] s t ∧ t.pc = s.pc + 2 ∧ sameButRegs s t

/-- The word 8xy7 decodes to Subn(x, y). In every state it answers a next state with PC + 2 in which V[x] is (V[y] -
V[x]) mod 256 unless x is 15, VF is 1 if the old V[y] is at least the old V[x] and else 0, and nothing else has
changed. The effect is rule R99; the pairing of family-8 selectors with operations and the place of y the spec
derives (rules R68, R61, D24, log entry 28). (41_alu.md section 3, 10_state.md section 2, 30_encoding.md sections
1, 2, 92_eei_decisions.md D24) -/
def Obligations.SubnSubtractsInReverse : Prop :=
  ∀ (x y : Reg) (s : State), decode (0x8#4 ++ x ++ y ++ 0x7#4) = .ok (.subn x y) ∧
    ∃ t, exec (.subn x y) s = .next t ∧
      (x ≠ VF → (t.getV x).toNat = ((s.getV y).toNat + 256 - (s.getV x).toNat) % 256) ∧
      t.getV VF = (if (s.getV x).toNat ≤ (s.getV y).toNat then 1 else 0) ∧
      keepsRegs [x, VF] s t ∧ t.pc = s.pc + 2 ∧ sameButRegs s t

/-- The word 8xyE decodes to Shl(x, y). In every state it answers a next state with PC + 2, the same for every y, in
which V[x] is twice the old V[x] mod 256 unless x is 15, VF is the old bit 7 of V[x], and nothing else has
changed. The effect is rule R100; the pairing of family-8 selectors with operations and the place of y the spec
derives (rules R68, R61, D24, log entry 28). (41_alu.md section 3, 10_state.md section 2, 30_encoding.md sections
1, 2, 92_eei_decisions.md D24) -/
def Obligations.ShlShiftsLeftIgnoringY : Prop :=
  ∀ (x y : Reg) (s : State), decode (0x8#4 ++ x ++ y ++ 0xE#4) = .ok (.shl x y) ∧
    ∃ t, exec (.shl x y) s = .next t ∧ (∀ z, exec (.shl x z) s = .next t) ∧
      (x ≠ VF → (t.getV x).toNat = 2 * (s.getV x).toNat % 256) ∧
      t.getV VF = (if 128 ≤ (s.getV x).toNat then 1 else 0) ∧
      keepsRegs [x, VF] s t ∧ t.pc = s.pc + 2 ∧ sameButRegs s t

/-- The word Annn decodes to LdI(nnn), and in every state executing it answers the state with I = nnn zero-extended
and PC + 2, all else unchanged; so the new I is below 0x1000. (42_index_memory.md section 1) -/
def Obligations.LdISetsTheIndexRegister : Prop :=
  ∀ (nnn : Addr12) (s : State), decode (0xA#4 ++ nnn) = .ok (.ldI nnn) ∧
    exec (.ldI nnn) s = .next { s with idx := nnn.setWidth 16, pc := s.pc + 2 } ∧
    (nnn.setWidth 16 : Word).toNat = nnn.toNat

/-- The word Fx1E decodes to AddI(x) (low byte from the spec's general knowledge G1). In every state it answers a next
state with PC + 2 and I = (I + V[x]) mod 65536; with ADDI_SETS_VF false no V register changes, with it true VF
becomes 1 if the new I exceeds 0x0FFF and else 0 (condition G5, log entry 8) and no other register changes;
nothing else changes. (42_index_memory.md section 1, 92_eei_decisions.md D16, 93_implementation_defined.md G1, G5) -/
def Obligations.AddIAddsToTheIndexRegister : Prop :=
  ∀ (x : Reg) (s : State), decode (0xF#4 ++ x ++ 0x1E#8) = .ok (.addI x) ∧
    ∃ t, exec (.addI x) s = .next t ∧ t.idx.toNat = (s.idx.toNat + (s.getV x).toNat) % 65536 ∧
      (s.params.addISetsVF = false → keepsRegs [] s t) ∧
      (s.params.addISetsVF = true → t.getV VF = (if 0x0FFF < t.idx.toNat then 1 else 0) ∧ keepsRegs [VF] s t) ∧
      t.pc = s.pc + 2 ∧ { t with v := s.v, idx := s.idx, pc := s.pc } = s

/-- The word Fx29 decodes to LdFont(x). In every state, for every value of FONT_BASE, it answers a next state with PC
+ 2 and I = (FONT_BASE + 5 * V[x]) mod 65536, the sum itself when FONT_BASE + 80 is at most 4096, all else
unchanged. Using the whole 8-bit V[x] is the spec's decision D18. (42_index_memory.md section 1,
92_eei_decisions.md D18) -/
def Obligations.LdFontPointsAtAGlyph : Prop :=
  ∀ (x : Reg) (s : State), decode (0xF#4 ++ x ++ 0x29#8) = .ok (.ldFont x) ∧
    ∃ t, exec (.ldFont x) s = .next t ∧
      t.idx.toNat = (s.params.fontBase.toNat + 5 * (s.getV x).toNat) % 65536 ∧
      (s.params.fontBase.toNat + 80 ≤ 4096 → t.idx.toNat = s.params.fontBase.toNat + 5 * (s.getV x).toNat) ∧
      t.pc = s.pc + 2 ∧ { t with idx := s.idx, pc := s.pc } = s

/-- The word Fx33 decodes to LdBcd(x). In every state in which the accesses are allowed (mask policy, or I + 2 at most
4095) it answers a next state with PC + 2 in which the bytes at (I + 0), (I + 1), (I + 2), indices modulo 4096,
are V[x] / 100, (V[x] / 10) mod 10 and V[x] mod 10, every other byte reads as before, and nothing but memory and
PC has changed. (42_index_memory.md section 2, 20_memory.md sections 2, 5, 93_implementation_defined.md G1) -/
def Obligations.LdBcdStoresThreeDigits : Prop :=
  ∀ (x : Reg) (s : State), decode (0xF#4 ++ x ++ 0x33#8) = .ok (.ldBcd x) ∧
    (s.params.memPolicy = .mask ∨ s.base + 2 ≤ 4095 →
      ∃ t, exec (.ldBcd x) s = .next t ∧ (t.readByte s.base).toNat = (s.getV x).toNat / 100 ∧
        (t.readByte (s.base + 1)).toNat = (s.getV x).toNat / 10 % 10 ∧
        (t.readByte (s.base + 2)).toNat = (s.getV x).toNat % 10 ∧
        keepsBytes [memIndex s.base, memIndex (s.base + 1), memIndex (s.base + 2)] s t ∧
        t.pc = s.pc + 2 ∧ sameButMem s t)

/-- The word Fx55 decodes to LdMemReg(x). In every state in which the accesses are allowed (mask policy, or I + x at
most 4095) it answers a next state with PC + 2 in which for every r up to x the byte at I + r (index modulo 4096)
is V[r], every byte at none of these indices reads as before, and nothing but memory and PC has changed (I
unchanged: decision D17). (42_index_memory.md section 2, 20_memory.md sections 2, 5, 92_eei_decisions.md D17,
93_implementation_defined.md G1) -/
def Obligations.LdMemRegStoresV0ToVx : Prop :=
  ∀ (x : Reg) (s : State), decode (0xF#4 ++ x ++ 0x55#8) = .ok (.ldMemReg x) ∧
    (s.params.memPolicy = .mask ∨ s.base + x.toNat ≤ 4095 →
      ∃ t, exec (.ldMemReg x) s = .next t ∧
        (∀ r : Reg, r.toNat ≤ x.toNat → t.readByte (s.base + r.toNat) = s.getV r) ∧
        (∀ a, (∀ r : Reg, r.toNat ≤ x.toNat → memIndex a ≠ memIndex (s.base + r.toNat)) →
          t.readByte a = s.readByte a) ∧
        t.pc = s.pc + 2 ∧ sameButMem s t)

/-- The word Fx65 decodes to LdRegMem(x). In every state in which the accesses are allowed (mask policy, or I + x at
most 4095) it answers a next state with PC + 2 in which for every r up to x V[r] is the byte at I + r (index
modulo 4096), every register above x keeps its value, and nothing else has changed (I unchanged: decision D17).
(42_index_memory.md section 2, 20_memory.md sections 2, 5, 92_eei_decisions.md D17, 93_implementation_defined.md
G1) -/
def Obligations.LdRegMemLoadsV0ToVx : Prop :=
  ∀ (x : Reg) (s : State), decode (0xF#4 ++ x ++ 0x65#8) = .ok (.ldRegMem x) ∧
    (s.params.memPolicy = .mask ∨ s.base + x.toNat ≤ 4095 →
      ∃ t, exec (.ldRegMem x) s = .next t ∧
        (∀ r : Reg, t.getV r = if r.toNat ≤ x.toNat then s.readByte (s.base + r.toNat) else s.getV r) ∧
        t.pc = s.pc + 2 ∧ sameButRegs s t)

/-- Under the fault policy, LdBcd with I + 2 above 4095, LdMemReg and LdRegMem with I + x above 4095, and Drw with n
at least 1 and I + n - 1 above 4095 each answer the state before the instruction with MemoryFault latched, info
the lowest faulting address (I or 4096, whichever is greater), pc and word the instruction's own: no register,
byte, or PC changes and no command is emitted. Precise faults are the spec's decision D12, the policy D2.
(20_memory.md section 2, 60_exceptions.md sections 1, 2, 92_eei_decisions.md D2, D12) -/
def Obligations.DataAccessesBeyondMemoryFault : Prop :=
  ∀ (x y : Reg) (n : Nibble) (s : State), s.params.memPolicy = .fault →
    (4095 < s.base + 2 →
      exec (.ldBcd x) s = .next (latched s (.memory (max s.base 4096)) (some (0xF#4 ++ x ++ 0x33#8)))) ∧
    (4095 < s.base + x.toNat →
      exec (.ldMemReg x) s = .next (latched s (.memory (max s.base 4096)) (some (0xF#4 ++ x ++ 0x55#8))) ∧
      exec (.ldRegMem x) s = .next (latched s (.memory (max s.base 4096)) (some (0xF#4 ++ x ++ 0x65#8)))) ∧
    (1 ≤ n.toNat → 4095 < s.base + n.toNat - 1 →
      exec (.drw x y n) s = .next (latched s (.memory (max s.base 4096)) (some (0xD#4 ++ x ++ y ++ n))))

/-- The words Fx07, Fx15, Fx18 decode to LdRegDt, LdDtReg, LdStReg (low bytes from the spec's general knowledge G1).
In every state: LdRegDt answers a next state with V[x] = DT and no other register changed; LdDtReg and LdStReg
answer the state with DT, ST the value of V[x]; PC + 2 and all else unchanged. (43_timers.md section 1,
93_implementation_defined.md G1) -/
def Obligations.TimerInstructionsMoveTimers : Prop :=
  ∀ (x : Reg) (s : State), decode (0xF#4 ++ x ++ 0x07#8) = .ok (.ldRegDt x) ∧
    decode (0xF#4 ++ x ++ 0x15#8) = .ok (.ldDtReg x) ∧ decode (0xF#4 ++ x ++ 0x18#8) = .ok (.ldStReg x) ∧
    (∃ t, exec (.ldRegDt x) s = .next t ∧ t.getV x = s.dt ∧
      keepsRegs [x] s t ∧ t.pc = s.pc + 2 ∧ sameButRegs s t) ∧
    exec (.ldDtReg x) s = .next { s with dt := s.getV x, pc := s.pc + 2 } ∧
    exec (.ldStReg x) s = .next { s with st := s.getV x, pc := s.pc + 2 }

/-- In every state the event Tick answers a next state in which DT and ST are each one less, or zero if they were
zero, and everything else, PC, WAIT and FAULT included, is unchanged; and step does exactly that, on the state
with the event taken off the agenda or counted as drawn, when the next event is Tick, be it the agenda's or a free
one. The effect is rule R118; that Tick is an event that acts in halted and waiting states too is rule R119 with
the spec's decision D15 and conflict C6 (log entry 23), and that the second clause takes the next event from an
agenda or, when that is empty, as a free value is the model's own choice (log entry 4). (43_timers.md section 2,
00_scope.md section 5, 90_conflicts.md C6, 92_eei_decisions.md D15) -/
def Obligations.TickCountsBothTimersDownToZero : Prop :=
  ∀ s : State,
    (∃ t, applyEvent .tick s = .next t ∧ t.dt.toNat = s.dt.toNat - 1 ∧ t.st.toNat = s.st.toNat - 1 ∧
      { t with dt := s.dt, st := s.st } = s) ∧
    (s.nextEvent = .tick →
      step s = applyEvent .tick { s with agenda := s.takeEvent.agenda, draws := s.takeEvent.draws })

/-- The word 0x00E0 decodes to Cls, and in every state executing it answers the state with PC + 2 and the command
DisplayClear handed out, all else, VF included, unchanged. (R120) -/
def Obligations.ClsOnlyEmitsAClear : Prop :=
  ∀ s : State, decode 0x00E0 = .ok .cls ∧
    exec .cls s = .next { s with pc := s.pc + 2, out := .displayClear :: s.out }

/-- The word Cxkk decodes to Rnd(x, kk). In every state, whatever byte the entropy source has answered, it answers a
next state with PC + 2 in which each bit of V[x] is that bit of the answer where kk has a 1 and 0 elsewhere, and
nothing else has changed. That the answer is a fresh free byte is the spec's decision D21. (44_io.md section 1,
10_state.md section 10, 92_eei_decisions.md D21) -/
def Obligations.RndMasksARandomByte : Prop :=
  ∀ (x : Reg) (kk : Byte) (s : State), decode (0xC#4 ++ x ++ kk) = .ok (.rnd x kk) ∧
    ∃ t, exec (.rnd x kk) s = .next t ∧
      (∀ j < 8, (t.getV x).getLsbD j = (kk.getLsbD j && s.env.rand.getLsbD j)) ∧
      keepsRegs [x] s t ∧ t.pc = s.pc + 2 ∧ sameButRegs s t

/-- The word Dxyn decodes to Drw(x, y, n). In every state in which the accesses are allowed (mask policy, n = 0, or I
+ n - 1 at most 4095) it answers a next state with PC + 2 that has handed out DisplayDraw of the old V[x], V[y]
and the n bytes at I (indices modulo 4096, ascending), and in which VF is 1 if n is not 0 and the display reports
a collision and else 0; every other register, I, memory and all else unchanged. That n = 0 gives 0 the spec
derives from the display's contract (D20, log entry 7), that y is nibble1 and n nibble0 from the layout of the
word (rule R61, D24, log entry 28). (44_io.md section 1, 10_state.md section 10, 30_encoding.md section 1,
92_eei_decisions.md D20, D24) -/
def Obligations.DrwHandsOverTheSpriteAndSetsVf : Prop :=
  ∀ (x y : Reg) (n : Nibble) (s : State), decode (0xD#4 ++ x ++ y ++ n) = .ok (.drw x y n) ∧
    (s.params.memPolicy = .mask ∨ n = 0 ∨ s.base + n.toNat - 1 ≤ 4095 →
      ∃ t bytes, exec (.drw x y n) s = .next t ∧ bytes.length = n.toNat ∧
        (∀ k < n.toNat, bytes[k]? = some (s.readByte (s.base + k))) ∧
        t.out = .displayDraw (s.getV x) (s.getV y) bytes :: s.out ∧
        t.getV VF = (if n ≠ 0 ∧ s.env.collided = true then 1 else 0) ∧ keepsRegs [VF] s t ∧ t.pc = s.pc + 2 ∧
        { t with v := s.v, pc := s.pc, out := s.out } = s)

/-- The words Ex9E, ExA1 decode to Skp(x), Sknp(x). In every state with V[x] at most 15 they answer the state that
differs only in PC: PC + 4 when bit V[x] of the key answer is 1 (Skp) or 0 (Sknp), else PC + 2. With V[x] above 15
each latches KeyRangeFault with V[x] as info and changes nothing else, PC included. The fault is the spec's
decision D11 (log entry 17); that the advance of PC is undone is its decision D12 (rule R135, log entry 11).
(44_io.md section 2, 60_exceptions.md sections 1, 2, 92_eei_decisions.md D11, D12) -/
def Obligations.KeySkipsAskForTheKeyTheValueNames : Prop :=
  ∀ (x : Reg) (s : State), decode (0xE#4 ++ x ++ 0x9E#8) = .ok (.skp x) ∧
    decode (0xE#4 ++ x ++ 0xA1#8) = .ok (.sknp x) ∧
    ((s.getV x).toNat ≤ 15 →
      exec (.skp x) s =
        .next { s with pc := if s.env.keyDown.getLsbD (s.getV x).toNat then s.pc + 4 else s.pc + 2 } ∧
      exec (.sknp x) s =
        .next { s with pc := if s.env.keyDown.getLsbD (s.getV x).toNat then s.pc + 2 else s.pc + 4 }) ∧
    (15 < (s.getV x).toNat →
      exec (.skp x) s = .next (latched s (.keyRange (s.getV x)) (some (0xE#4 ++ x ++ 0x9E#8))) ∧
      exec (.sknp x) s = .next (latched s (.keyRange (s.getV x)) (some (0xE#4 ++ x ++ 0xA1#8))))

/-- The word Fx0A decodes to LdRegKey(x), and in every state executing it answers the state with WAIT set, WAITREG = x
and PC + 2, all else unchanged: V[x] is not written and the key event offered is not taken (the spec's decision
D10). (44_io.md section 2, 92_eei_decisions.md D10, 93_implementation_defined.md G1) -/
def Obligations.LdRegKeyArmsTheWait : Prop :=
  ∀ (x : Reg) (s : State), decode (0xF#4 ++ x ++ 0x0A#8) = .ok (.ldRegKey x) ∧
    exec (.ldRegKey x) s = .next { s with wait := true, waitReg := x, pc := s.pc + 2 }

/-- For every state with WAIT set and no fault: Step with no key event leaves everything as it was; Step with key
event k answers a next state with WAIT clear in which V[WAITREG] is k, every other register, PC, memory and all
else are unchanged. Mechanics by the spec's decision D10. (44_io.md section 2, 10_state.md section 8,
92_eei_decisions.md D10) -/
def Obligations.KeyWaitEndsOnlyWithAKey : Prop :=
  ∀ (env : Env) (s : State), s.fault = none → s.wait = true →
    (env.keyEvent = none → stepEvent env s = .next { s with env := env }) ∧
    (∀ k, env.keyEvent = some k →
      ∃ t, stepEvent env s = .next t ∧ (t.getV s.waitReg).toNat = k.toNat ∧ keepsRegs [s.waitReg] s t ∧
        t.wait = false ∧ { t with v := s.v, wait := s.wait, env := s.env } = s)

/-- For every state that is neither halted nor waiting and every invalid word, placed at PC: Step answers the state
before it with FAULT = (DecodeFault, PC, word), PC not advanced and nothing else written; while a word that is
valid never raises DecodeFault. (60_exceptions.md section 1, 40_control_flow.md section 1) -/
def Obligations.InvalidWordsRaiseDecodeFault : Prop :=
  ∀ (env : Env) (s : State) (w : Word), s.fault = none → s.wait = false → s.fetchWord = .ok w →
    ((∃ e, decode w = .error e) →
      ∃ t, stepEvent env s = .next t ∧ t.fault = some { cause := .decode, pc := s.pc, word := some w } ∧
        { t with fault := none, env := s.env } = s) ∧
    (∀ i t r, decode w = .ok i → stepEvent env s = .next t → t.fault = some r → r.cause ≠ .decode)

/-- For every state that is neither halted nor waiting, under the fault policy, with PC + 1 above 4095: Step answers
the state before it with FAULT = (MemoryFault, PC, no word), info PC if PC is above 4095 and else 4096, and
nothing else written, whatever memory holds. The policy is the spec's decision D2 (log entry 12); that the fault
is precise and its record has no word is its decision D12 (log entry 11). (20_memory.md section 2,
60_exceptions.md sections 1, 2, 92_eei_decisions.md D2, D12) -/
def Obligations.FetchBeyondMemoryFaultsFirst : Prop :=
  ∀ (env : Env) (s : State), s.fault = none → s.wait = false → s.params.memPolicy = .fault → 4095 < s.pc.toNat + 1 →
    stepEvent env s = .next { s with
      env := env
      fault := some { cause := .memory (max s.pc.toNat 4096), pc := s.pc, word := none } }

/-- For every state with a fault latched: Step changes nothing (but the answers held), Tick changes only DT and ST, so
the latch stays; Reset clears it. Holding the halt in a latch is the spec's decision D14 (log entry 10), that Tick
comes in a halted state too its decision D15 (log entry 23). (60_exceptions.md section 2, 43_timers.md section 2,
92_eei_decisions.md D14, D15) -/
def Obligations.HaltIsStickyUntilReset : Prop :=
  ∀ (s : State) (r : FaultRecord), s.fault = some r →
    (∀ env, stepEvent env s = .next { s with env := env }) ∧
    (∀ e t, e ≠ .reset → applyEvent e s = .next t →
      t.fault = some r ∧ { t with dt := s.dt, st := s.st, env := s.env } = s) ∧
    (∃ t, applyEvent .reset s = .next t ∧ t.fault = none)

/-- For every state with no fault latched and every Step that ends with record r latched: the state is the state
before with r latched (and the answers held), r's pc is the PC before, and r's word is the word fetched, or none
exactly when the fetch itself faulted. So every write of a faulting instruction is discarded and no command is
emitted (decision D12). (60_exceptions.md section 2, 92_eei_decisions.md D12) -/
def Obligations.FaultsArePrecise : Prop :=
  ∀ (env : Env) (s t : State) (r : FaultRecord), s.fault = none → stepEvent env s = .next t → t.fault = some r →
    t = { s with env := env, fault := some r } ∧ r.pc = s.pc ∧
    (∀ w, s.fetchWord = .ok w → r.word = some w) ∧ (∀ a, s.fetchWord = .error a → r.word = none)

/-- For every state with the default parameters and no fault latched, a Step that latches a fault latches DecodeFault,
or KeyRangeFault of a value above 15, never MemoryFault or StackFault (the last column of R130's table). That a
value above 15 is a KeyRangeFault is the spec's decision D11 (rule R134, log entry 17); that the default policies
mask and wrap raise nothing are its decisions D2 and D3 (log entries 12, 13). (60_exceptions.md section 1,
40_control_flow.md section 1, 92_eei_decisions.md D2, D3, D11) -/
def Obligations.DefaultParametersRaiseTwoFaultsOnly : Prop :=
  ∀ (env : Env) (s t : State) (r : FaultRecord), Params.isDefault s.params → s.fault = none →
    stepEvent env s = .next t → t.fault = some r →
    r.cause = .decode ∨ ∃ k : Byte, r.cause = .keyRange k ∧ 15 < k.toNat

/-- For every instruction and state, if exec answers t then every byte whose index is not among those storeSpan
computes from I (the three of LdBcd, the x + 1 of LdMemReg, none for every other instruction) reads in t as
before. (20_memory.md section 5, 42_index_memory.md sections 2, 3) -/
def Obligations.OnlyTheStoringInstructionsWriteMemory : Prop :=
  ∀ (i : Instr) (s t : State), exec i s = .next t → keepsBytes (storeSpan i s) s t

/-- For every instruction that is neither Call nor Ret and every state, if exec answers t then the stack entries, SP
and DEPTH are unchanged; the same holds of Tick and of a Step taken while waiting. That a waiting Step fetches
nothing, also when the key arrives, is the spec's decision D10 (log entry 16), that one also halted changes
nothing its decision D14 (log entry 10); that there is a DEPTH, the counter of the policy fault, its decision D3
(log entry 13); that Tick comes between steps in every state its decision D15 (log entry 23). (10_state.md
sections 5, 8, 44_io.md section 2, 43_timers.md section 2, 92_eei_decisions.md D3, D10, D14, D15) -/
def Obligations.OnlyCallAndRetTouchTheStack : Prop :=
  (∀ (i : Instr) (s t : State), i.mnemonic ≠ .call → i.mnemonic ≠ .ret → exec i s = .next t →
    t.stack = s.stack ∧ t.sp = s.sp ∧ t.depth = s.depth) ∧
  (∀ s t : State, applyEvent .tick s = .next t → t.stack = s.stack ∧ t.sp = s.sp ∧ t.depth = s.depth) ∧
  (∀ (env : Env) (s t : State), s.wait = true → stepEvent env s = .next t →
    t.stack = s.stack ∧ t.sp = s.sp ∧ t.depth = s.depth)

/-- For every instruction and state, if exec answers t then DT is unchanged unless the instruction is LdDtReg and ST
is unchanged unless it is LdStReg. For every Step, if it changes DT then the machine was neither halted nor
waiting, the Step latches no fault, the word fetched is that of LdDtReg(x) for some x, and DT is the old V[x]; the
same of ST with LdStReg; so a halted, a waiting and a faulting Step change neither timer. Every Tick takes one
from each timer that is not zero, in every state. That a faulting Step leaves the timers is the spec's decision
D12 (log entry 11), that a waiting and a halted Step do its decisions D10 and D14 (log entries 16, 10), the low
bytes of the two words its general knowledge G1 (log entry 15), that Tick comes between steps in every state its
decision D15 (log entry 23). (10_state.md sections 6, 8, 43_timers.md sections 1, 2, 40_control_flow.md section 1,
60_exceptions.md section 2, 92_eei_decisions.md D10, D12, D14, D15, 93_implementation_defined.md G1) -/
def Obligations.OnlyTheTimerInstructionsWriteTimers : Prop :=
  (∀ (i : Instr) (s t : State), exec i s = .next t →
    (i.mnemonic ≠ .ldDtReg → t.dt = s.dt) ∧ (i.mnemonic ≠ .ldStReg → t.st = s.st)) ∧
  (∀ (env : Env) (s t : State), stepEvent env s = .next t →
    (t.dt ≠ s.dt → s.fault = none ∧ s.wait = false ∧ t.fault = none ∧
      ∃ x, s.fetchWord = .ok (encode (.ldDtReg x)) ∧ t.dt = s.getV x) ∧
    (t.st ≠ s.st → s.fault = none ∧ s.wait = false ∧ t.fault = none ∧
      ∃ x, s.fetchWord = .ok (encode (.ldStReg x)) ∧ t.st = s.getV x)) ∧
  (∀ s : State, ∃ t, applyEvent .tick s = .next t ∧
    t.dt.toNat = s.dt.toNat - 1 ∧ t.st.toNat = s.st.toNat - 1)

/-- For every instruction other than LdStReg, every state and every byte b: if exec answers t, then from the same
state with ST = b it answers t with ST = b; LdStReg answers the same state from both. (10_state.md section 6,
43_timers.md section 1) -/
def Obligations.TheSoundTimerIsNeverRead : Prop :=
  ∀ (i : Instr) (s t : State) (b : Byte), exec i s = .next t →
    (i.mnemonic ≠ .ldStReg → exec i { s with st := b } = .next { t with st := b }) ∧
    (i.mnemonic = .ldStReg → exec i { s with st := b } = .next t)

/-- For every instruction that is none of LdI, AddI, LdFont and every state, if exec answers t then I is unchanged;
and no instruction takes I from at most 0x0FFF to above it but AddI or LdFont. For every Step that changes I the
machine was neither halted nor waiting, the Step latches no fault, and the word fetched is that of one of the
three; so a halted, a waiting and a faulting Step leave I. For every Step that takes I from at most 0x0FFF to
above it the word fetched is that of AddI(x) or LdFont(x) for some x. A Tick leaves I. That the block store and
load leave I is the spec's decision D17 (log entry 19), that a faulting Step does its decision D12 (log entry 11),
a waiting and a halted one its decisions D10 and D14 (log entries 16, 10); the low byte of AddI is its general
knowledge G1 (log entry 15). (10_state.md sections 4, 8, 42_index_memory.md sections 1, 2, 40_control_flow.md
section 1, 60_exceptions.md section 2, 92_eei_decisions.md D10, D12, D14, D17, 93_implementation_defined.md G1) -/
def Obligations.OnlyThreeInstructionsWriteTheIndexRegister : Prop :=
  (∀ (i : Instr) (s t : State), exec i s = .next t →
    (i.mnemonic ≠ .ldI → i.mnemonic ≠ .addI → i.mnemonic ≠ .ldFont → t.idx = s.idx) ∧
    (s.idx.toNat ≤ 0x0FFF → 0x0FFF < t.idx.toNat → i.mnemonic = .addI ∨ i.mnemonic = .ldFont)) ∧
  (∀ (env : Env) (s t : State), stepEvent env s = .next t →
    (t.idx ≠ s.idx → s.fault = none ∧ s.wait = false ∧ t.fault = none ∧
      ∃ i, s.fetchWord = .ok (encode i) ∧ (i.mnemonic = .ldI ∨ i.mnemonic = .addI ∨ i.mnemonic = .ldFont)) ∧
    (s.idx.toNat ≤ 0x0FFF → 0x0FFF < t.idx.toNat →
      ∃ x, s.fetchWord = .ok (encode (.addI x)) ∨ s.fetchWord = .ok (encode (.ldFont x)))) ∧
  (∀ s : State, ∃ t, applyEvent .tick s = .next t ∧ t.idx = s.idx)

/-- For every instruction, every state with the default parameters and every answer t of exec with no fault newly
latched: after AddReg, SubReg, Shr, Subn, Shl, Drw VF is 0 or 1; after any other instruction VF is unchanged
unless VF is its destination register (the x of LdImm, AddImm, LdReg, Or, And, Xor, Rnd, LdRegDt with x = 15, or
LdRegMem(15)). The exact values are in the statements of those instructions. (10_state.md section 2, 44_io.md
section 1) -/
def Obligations.VfIsWrittenAsAFlagBySixInstructionsOnly : Prop :=
  ∀ (i : Instr) (s t : State), Params.isDefault s.params → s.fault = none → exec i s = .next t → t.fault = none →
    (writesFlag i = true → t.getV VF = 0 ∨ t.getV VF = 1) ∧
    (writesFlag i = false → VF ∉ destRegs i → t.getV VF = s.getV VF)

/-- For every instruction and state, if exec answers t then every V register that is neither one of the instruction's
destinations (x; V0 to Vx for LdRegMem; none for the others) nor VF of a flag-writing instruction (AddI included
when ADDI_SETS_VF is true) keeps its value. (10_state.md sections 1, 2, 40_control_flow.md section 1) -/
def Obligations.InstructionsWriteOnlyTheirDestinationRegisters : Prop :=
  ∀ (i : Instr) (s t : State) (r : Reg), exec i s = .next t → r ∉ destRegs i →
    (writesFlag i = true ∨ (i.mnemonic = .addI ∧ s.params.addISetsVF = true) → r ≠ VF) → t.getV r = s.getV r

/-- For every instruction and every state with no fault latched, if exec answers t: with a fault latched in t PC is
unchanged; else PC is PC + 2 for every instruction that transfers no control, PC + 2 or PC + 4 for the six skips,
all modulo 2^16. The wrap is the spec's decision D19 (log entry 20); that a fault leaves PC, the advance undone,
is its decision D12 (rule R135, log entry 11). (10_state.md section 3, 40_control_flow.md sections 1, 5,
60_exceptions.md section 2, 92_eei_decisions.md D12, D19) -/
def Obligations.PcMovesAsEachKindOfInstructionSays : Prop :=
  ∀ (i : Instr) (s t : State), s.fault = none → exec i s = .next t →
    (t.fault ≠ none → t.pc = s.pc) ∧
    (t.fault = none → isJump i = false → isSkip i = false → t.pc = s.pc + 2) ∧
    (t.fault = none → isSkip i = true → t.pc = s.pc + 2 ∨ t.pc = s.pc + 4)

/-- For every instruction that asks the environment nothing, every state and all answers e: if exec answers t, then
from the same state with answers e held it answers t with e held. Cls only emits a command; that LdRegKey only
arms the wait and does not look at the key event is the spec's decision D10 (rule R125, log entry 16).
(10_state.md section 10, 44_io.md sections 2, 3, 92_eei_decisions.md D10) -/
def Obligations.OnlyFourInstructionsAskTheEnvironment : Prop :=
  ∀ (i : Instr) (s t : State) (e : Env), asksEnv i = false → exec i s = .next t →
    exec i { s with env := e } = .next { t with env := e }

/-- For every state with no fault latched and every Step that answers t: the commands handed out are those before, or
one more; if t has a fault latched they are those before. That a faulting Step hands out no command is part of the
spec's decision D12 (rule R135, log entry 11). (10_state.md section 10, 60_exceptions.md section 2,
92_eei_decisions.md D12) -/
def Obligations.AStepHandsOutAtMostOneCommand : Prop :=
  ∀ (env : Env) (s t : State), s.fault = none → stepEvent env s = .next t →
    (t.out = s.out ∨ ∃ c, t.out = c :: s.out) ∧ (t.fault ≠ none → t.out = s.out)

/-- For every state, if step answers t then the parameters of t are those of s. Holding the parameters in the state is
the model's choice (log entry 1). (00_scope.md section 3) -/
def Obligations.NoEventChangesTheParameters : Prop :=
  ∀ s t : State, step s = .next t → t.params = s.params

/-- For every state with WAIT clear, all answers env and every key event e: if Step(env) answers t, then Step with e
as the key event answers t with those answers held instead. (60_exceptions.md section 3, 92_eei_decisions.md D27) -/
def Obligations.KeyEventsOutsideAWaitAreIgnored : Prop :=
  ∀ (env : Env) (e : Option Nibble) (s t : State), s.wait = false → stepEvent env s = .next t →
    stepEvent { env with keyEvent := e } s = .next { t with env := { env with keyEvent := e } }

/-- For every state with the mask policy, I equal to PC + 2 and x at least 1: LdMemReg(x) answers a next state whose
fetch gives the word with high byte V0 and low byte V1. Self-modifying code needs no fence. (20_memory.md section
7, 42_index_memory.md section 2) -/
def Obligations.AStoreIsSeenByTheNextFetch : Prop :=
  ∀ (x : Reg) (s : State), s.params.memPolicy = .mask → s.idx = s.pc + 2 → 1 ≤ x.toNat →
    ∃ t, exec (.ldMemReg x) s = .next t ∧ t.fetchWord = .ok (wordOfBytes (s.getV 0) (s.getV 1))
end

