-- ==== Sys2Proof/Laws/Encoding.lean ====
section
/-!
SUPPORT. The fields of a word built from fields, a word rebuilt from its fields, and the words a row's mask and match
select: the facts from which the round trip (30_encoding.md rule R74) and the agreement with the opcode map (R65) follow.
-/

namespace Sys2Proof

/-! ### The fields of `op : nnn`, `op : x : kk`, `op : x : y : n` (R61, R63) -/

theorem opOf_nnn (o : BitVec 4) (a : Addr12) : opOf (o ++ a) = o := BitVec.extractLsb'_append_eq_left

theorem nnnOf_nnn (o : BitVec 4) (a : Addr12) : nnnOf (o ++ a) = a := BitVec.extractLsb'_append_eq_right

theorem kkOf_xkk (o : BitVec 4) (x : Reg) (kk : Byte) : kkOf (o ++ x ++ kk) = kk := BitVec.extractLsb'_append_eq_right

theorem nOf_xyn (o : BitVec 4) (x y : Reg) (n : Nibble) : nOf (o ++ x ++ y ++ n) = n :=
  BitVec.extractLsb'_append_eq_right

theorem xOf_xkk (o : BitVec 4) (x : Reg) (kk : Byte) : xOf (o ++ x ++ kk) = x := by
  unfold xOf
  ext j hj
  simp only [BitVec.getElem_extractLsb', BitVec.getLsbD_append]
  rw [if_neg (by omega), if_pos (by omega)]
  simp [BitVec.getLsbD_eq_getElem hj]

theorem opOf_xkk (o : BitVec 4) (x : Reg) (kk : Byte) : opOf (o ++ x ++ kk) = o := by
  unfold opOf
  ext j hj
  simp only [BitVec.getElem_extractLsb', BitVec.getLsbD_append]
  rw [if_neg (by omega), if_neg (by omega)]
  simp [show 12 + j - 8 - 4 = j by omega, BitVec.getLsbD_eq_getElem hj]

/-- `x : y : n` with the last two nibbles read as one byte: the shape XYN is the shape XKK. -/
theorem xyn_eq_xkk (o : BitVec 4) (x y : Reg) (n : Nibble) :
    (o ++ x ++ y ++ n : Word) = (o ++ x ++ (y ++ n : Byte) : Word) := by
  rw [BitVec.append_assoc]
  rfl

theorem xOf_xyn (o : BitVec 4) (x y : Reg) (n : Nibble) : xOf (o ++ x ++ y ++ n) = x := by
  rw [xyn_eq_xkk, xOf_xkk]

theorem opOf_xyn (o : BitVec 4) (x y : Reg) (n : Nibble) : opOf (o ++ x ++ y ++ n) = o := by
  rw [xyn_eq_xkk, opOf_xkk]

theorem yOf_xyn (o : BitVec 4) (x y : Reg) (n : Nibble) : yOf (o ++ x ++ y ++ n) = y := by
  unfold yOf
  ext j hj
  simp only [BitVec.getElem_extractLsb', BitVec.getLsbD_append]
  rw [if_neg (by omega), if_pos (by omega)]
  simp [BitVec.getLsbD_eq_getElem hj]

/-! ### A word rebuilt from its fields -/

theorem rebuild_nnn (w : Word) : (opOf w ++ nnnOf w : Word) = w := by
  unfold opOf nnnOf
  ext j hj
  simp only [BitVec.getElem_append, BitVec.getElem_extractLsb']
  split
  · simp [BitVec.getLsbD_eq_getElem hj]
  · rename_i h
    simp [show 12 + (j - 12) = j by omega, BitVec.getLsbD_eq_getElem hj]

theorem rebuild_xkk (w : Word) : (opOf w ++ xOf w ++ kkOf w : Word) = w := by
  unfold opOf xOf kkOf
  ext j hj
  simp only [BitVec.getElem_append, BitVec.getElem_extractLsb']
  split
  · simp [BitVec.getLsbD_eq_getElem hj]
  · split
    · simp [show 8 + (j - 8) = j by omega, BitVec.getLsbD_eq_getElem hj]
    · simp [show 12 + (j - 8 - 4) = j by omega, BitVec.getLsbD_eq_getElem hj]

theorem rebuild_xyn (w : Word) : (opOf w ++ xOf w ++ yOf w ++ nOf w : Word) = w := by
  unfold opOf xOf yOf nOf
  ext j hj
  simp only [BitVec.getElem_append, BitVec.getElem_extractLsb']
  split
  · simp [BitVec.getLsbD_eq_getElem hj]
  · split
    · simp [show 4 + (j - 4) = j by omega, BitVec.getLsbD_eq_getElem hj]
    · split
      · simp [show 8 + (j - 4 - 4) = j by omega, BitVec.getLsbD_eq_getElem hj]
      · simp [show 12 + (j - 4 - 4 - 4) = j by omega, BitVec.getLsbD_eq_getElem hj]

/-- The two bytes of a word put back together (R43). -/
theorem wordOfBytes_bytes (w : Word) : wordOfBytes (highByte w) (lowByte w) = w := by
  unfold wordOfBytes highByte lowByte
  ext j hj
  simp only [BitVec.getElem_append, BitVec.getElem_extractLsb']
  split
  · simp [BitVec.getLsbD_eq_getElem hj]
  · simp [show 8 + (j - 8) = j by omega, BitVec.getLsbD_eq_getElem hj]

/-! ### The first level of the decoder (R64) -/

theorem decode_of_op0 {w : Word} (h : opOf w = 0x0#4) : decode w = decodeFamily0 w := by unfold decode; rw [h]; rfl
theorem decode_of_op5 {w : Word} (h : opOf w = 0x5#4) : decode w = decodeFamily5 w := by unfold decode; rw [h]; rfl
theorem decode_of_op8 {w : Word} (h : opOf w = 0x8#4) : decode w = decodeFamily8 w := by unfold decode; rw [h]; rfl
theorem decode_of_op9 {w : Word} (h : opOf w = 0x9#4) : decode w = decodeFamily9 w := by unfold decode; rw [h]; rfl
theorem decode_of_opE {w : Word} (h : opOf w = 0xE#4) : decode w = decodeFamilyE w := by unfold decode; rw [h]; rfl
theorem decode_of_opF {w : Word} (h : opOf w = 0xF#4) : decode w = decodeFamilyF w := by unfold decode; rw [h]; rfl

/-! ### What a row's mask keeps (R65) -/

theorem mask_nnn (o : BitVec 4) (a : Addr12) : (o ++ a : Word) &&& 0xF000#16 = (o ++ 0x000#12 : Word) := by
  rw [show (0xF000#16 : Word) = (0xF#4 ++ 0x000#12 : Word) from rfl, BitVec.and_append, BitVec.and_zero,
    show (0xF#4 : BitVec 4) = BitVec.allOnes 4 from rfl, BitVec.and_allOnes]

theorem mask_xkk (o : BitVec 4) (x : Reg) (kk : Byte) :
    (o ++ x ++ kk : Word) &&& 0xF0FF#16 = (o ++ 0x0#4 ++ kk : Word) := by
  rw [show (0xF0FF#16 : Word) = (0xF#4 ++ 0x0#4 ++ 0xFF#8 : Word) from rfl, BitVec.and_append, BitVec.and_append,
    BitVec.and_zero, show (0xF#4 : BitVec 4) = BitVec.allOnes 4 from rfl, BitVec.and_allOnes,
    show (0xFF#8 : BitVec 8) = BitVec.allOnes 8 from rfl, BitVec.and_allOnes]

theorem mask_xyn (o : BitVec 4) (x y : Reg) (n : Nibble) :
    (o ++ x ++ y ++ n : Word) &&& 0xF00F#16 = (o ++ 0x0#4 ++ 0x0#4 ++ n : Word) := by
  rw [show (0xF00F#16 : Word) = (0xF#4 ++ 0x0#4 ++ 0x0#4 ++ 0xF#4 : Word) from rfl, BitVec.and_append,
    BitVec.and_append, BitVec.and_append, BitVec.and_zero, BitVec.and_zero,
    show (0xF#4 : BitVec 4) = BitVec.allOnes 4 from rfl, BitVec.and_allOnes, BitVec.and_allOnes]

end Sys2Proof
end

