-- ==== Sys2Proof/Laws/Memory.lean ====
section
/-!
SUPPORT. Memory: a read after a write (20_memory.md rules R45, R48), the canonical form every write keeps, and the
multi-byte store of `LdBcd` and `LdMemReg`.
-/

namespace Sys2Proof.Machine

/-! ### One byte -/

theorem Memory.read_erase (m : Memory) (a b : Nat) :
    Memory.read (Memory.erase m a) b = if b = a then Memory.unlisted else Memory.read m b := by
  induction m with
  | nil => simp [Memory.erase, Memory.read]
  | cons c m ih =>
    obtain ⟨k, v⟩ := c
    unfold Memory.erase at ih ⊢
    by_cases hk : k = a
    · subst hk
      rw [List.filter_cons_of_neg (by simp), ih]
      by_cases hb : b = k
      · simp [hb]
      · simp [hb, Memory.read, Ne.symm hb]
    · rw [List.filter_cons_of_pos (by simpa using hk)]
      unfold Memory.read
      rw [ih]
      by_cases hb : k = b
      · subst hb; simp [hk]
      · simp [hb]

theorem Memory.read_insert (m : Memory) (a b : Nat) (v : Byte) (h : ∀ c ∈ m, c.1 ≠ a) :
    Memory.read (Memory.insert m a v) b = if b = a then v else Memory.read m b := by
  induction m with
  | nil =>
    by_cases hb : b = a
    · simp [Memory.insert, Memory.read, hb]
    · simp [Memory.insert, Memory.read, hb, Ne.symm hb]
  | cons c m ih =>
    obtain ⟨k, u⟩ := c
    have hk : k ≠ a := h (k, u) (by simp)
    have ih := ih fun c hc => h c (by simp [hc])
    unfold Memory.insert
    by_cases hlt : a < k
    · rw [if_pos hlt]
      by_cases hb : b = a
      · simp [Memory.read, hb]
      · simp [Memory.read, hb, Ne.symm hb]
    · rw [if_neg hlt]
      simp only [Memory.read, ih]
      by_cases hb : k = b
      · subst hb; simp [hk]
      · simp [hb]

theorem Memory.erase_ne (m : Memory) (a : Nat) : ∀ c ∈ Memory.erase m a, c.1 ≠ a := by
  intro c hc
  simpa using (List.mem_filter.mp hc).2

/-- A read after a write, of any memory whatever: the byte written at the index written, what was there before
elsewhere. -/
theorem Memory.read_write (m : Memory) (a b : Nat) (v : Byte) :
    Memory.read (Memory.write m a v) b = if b = a then v else Memory.read m b := by
  unfold Memory.write
  split
  · next h => rw [Memory.read_erase, h]
  · rw [Memory.read_insert _ _ _ _ (Memory.erase_ne m a), Memory.read_erase]
    by_cases hb : b = a <;> simp [hb]

/-! ### The canonical form -/

/-- The canonical form of a non-empty list, said with propositions. -/
theorem Memory.wf_cons (k : Nat) (b : Byte) (m : Memory) :
    Memory.wf ((k, b) :: m) = true ↔
      k < 4096 ∧ b ≠ Memory.unlisted ∧ (∀ c ∈ m, k < c.1) ∧ Memory.wf m = true := by
  simp only [Memory.wf, Bool.and_eq_true, decide_eq_true_eq, bne_iff_ne, ne_eq, List.all_eq_true, and_assoc]
  rfl

theorem Memory.erase_wf {m : Memory} (h : Memory.wf m = true) (a : Nat) : Memory.wf (Memory.erase m a) = true := by
  induction m with
  | nil => rfl
  | cons c m ih =>
    obtain ⟨k, b⟩ := c
    obtain ⟨hk, hb, hall, hm⟩ := (Memory.wf_cons k b m).mp h
    unfold Memory.erase at ih ⊢
    by_cases hka : k = a
    · rw [List.filter_cons_of_neg (by simpa using hka)]
      exact ih hm
    · rw [List.filter_cons_of_pos (by simpa using hka)]
      exact (Memory.wf_cons k b _).mpr ⟨hk, hb, fun c hc => hall c (List.mem_filter.mp hc).1, ih hm⟩

theorem Memory.mem_insert {m : Memory} {a : Nat} {v : Byte} {c : Host.Cell} (h : c ∈ Memory.insert m a v) :
    c = (a, v) ∨ c ∈ m := by
  induction m with
  | nil => simpa [Memory.insert] using h
  | cons d m ih =>
    obtain ⟨k, b⟩ := d
    unfold Memory.insert at h
    split at h
    · simpa using h
    · rcases List.mem_cons.mp h with h | h
      · exact .inr (by simp [h])
      · exact (ih h).imp_right fun h => by simp [h]

theorem Memory.insert_wf {m : Memory} (h : Memory.wf m = true) {a : Nat} (ha : a < 4096) {v : Byte}
    (hv : v ≠ Memory.unlisted) (hne : ∀ c ∈ m, c.1 ≠ a) : Memory.wf (Memory.insert m a v) = true := by
  induction m with
  | nil => exact (Memory.wf_cons a v []).mpr ⟨ha, hv, by simp, rfl⟩
  | cons d m ih =>
    obtain ⟨k, b⟩ := d
    obtain ⟨hk, hb, hall, hm⟩ := (Memory.wf_cons k b m).mp h
    have hka : k ≠ a := hne (k, b) (by simp)
    unfold Memory.insert
    split
    · next hlt =>
      refine (Memory.wf_cons a v _).mpr ⟨ha, hv, fun c hc => ?_, h⟩
      rcases List.mem_cons.mp hc with rfl | hc
      · exact hlt
      · exact Nat.lt_trans hlt (hall c hc)
    · next hlt =>
      refine (Memory.wf_cons k b _).mpr ⟨hk, hb, fun c hc => ?_, ih hm fun c hc => hne c (by simp [hc])⟩
      rcases Memory.mem_insert hc with rfl | hc
      · show k < a
        omega
      · exact hall c hc

/-- Every write below 4096 keeps the canonical form. -/
theorem Memory.write_wf {m : Memory} (h : Memory.wf m = true) {a : Nat} (ha : a < 4096) (v : Byte) :
    Memory.wf (Memory.write m a v) = true := by
  unfold Memory.write
  split
  · exact Memory.erase_wf h a
  · next hv => exact Memory.insert_wf (Memory.erase_wf h a) ha hv (Memory.erase_ne m a)

/-! ### Through the state -/

theorem memIndex_lt (a : Nat) : memIndex a < 4096 := Nat.mod_lt _ (by decide)

/-- `MemRead` after `MemWrite` (R41). -/
@[simp] theorem State.readByte_writeByte (s : State) (a b : Nat) (v : Byte) :
    (s.writeByte a v).readByte b = if memIndex b = memIndex a then v else s.readByte b :=
  Memory.read_write s.mem (memIndex a) (memIndex b) v

theorem State.writeByte_wf {s : State} (h : Memory.wf s.mem = true) (a : Nat) (v : Byte) :
    Memory.wf (s.writeByte a v).mem = true := Memory.write_wf h (memIndex_lt a) v

/-- A store of several bytes keeps the canonical form. -/
theorem State.storeBytes_wf {s : State} (h : Memory.wf s.mem = true) (base : Nat) (bs : List Byte) :
    Memory.wf (s.storeBytes base bs).mem = true := by
  induction bs generalizing s base with
  | nil => exact h
  | cons b bs ih => exact ih (State.writeByte_wf h base b) (base + 1)

/-- A byte outside the indices a store touches reads as before. -/
theorem State.readByte_storeBytes_of_ne (s : State) (base : Nat) (bs : List Byte) (a : Nat)
    (h : ∀ k < bs.length, memIndex a ≠ memIndex (base + k)) : (s.storeBytes base bs).readByte a = s.readByte a := by
  induction bs generalizing s base with
  | nil => rfl
  | cons b bs ih =>
    unfold State.storeBytes
    rw [ih _ _ fun k hk => ?_, State.readByte_writeByte, if_neg (by simpa using h 0 (by simp))]
    have := h (k + 1) (by simpa using hk)
    rwa [show base + 1 + k = base + (k + 1) by omega]

/-- Byte `k` of a store of at most 4096 bytes reads back as the byte stored. -/
theorem State.readByte_storeBytes (s : State) (base : Nat) (bs : List Byte) (hlen : bs.length ≤ 4096) (k : Nat)
    (hk : k < bs.length) : (s.storeBytes base bs).readByte (base + k) = bs[k] := by
  induction bs generalizing s base k with
  | nil => exact absurd hk (by simp)
  | cons b bs ih =>
    have hlen : bs.length + 1 ≤ 4096 := by simpa using hlen
    unfold State.storeBytes
    cases k with
    | zero =>
      rw [State.readByte_storeBytes_of_ne, State.readByte_writeByte, if_pos (by simp)]
      · rfl
      · intro j hj
        simp only [memIndex, Config.memSize]
        omega
    | succ k =>
      have := ih (s.writeByte base b) (base + 1) (by omega) k (by simpa using hk)
      rw [show base + (k + 1) = base + 1 + k by omega, this]
      rfl

end Sys2Proof.Machine
end

