-- ==== Sys2Proof/Laws/State.lean ====
section
/-!
SUPPORT. What each update of the state does to each field: one lemma per field per update, each true by unfolding the
record update, so that no later proof unfolds one.
-/

namespace Sys2Proof.Machine

/-! ### setV -/

@[simp] theorem State.setV_v (s : State) (x : Reg) (b : Byte) : (s.setV x b).v = s.v.set x.toNat b x.isLt := rfl
@[simp] theorem State.setV_pc (s : State) (x : Reg) (b : Byte) : (s.setV x b).pc = s.pc := rfl
@[simp] theorem State.setV_idx (s : State) (x : Reg) (b : Byte) : (s.setV x b).idx = s.idx := rfl
@[simp] theorem State.setV_sp (s : State) (x : Reg) (b : Byte) : (s.setV x b).sp = s.sp := rfl
@[simp] theorem State.setV_stack (s : State) (x : Reg) (b : Byte) : (s.setV x b).stack = s.stack := rfl
@[simp] theorem State.setV_depth (s : State) (x : Reg) (b : Byte) : (s.setV x b).depth = s.depth := rfl
@[simp] theorem State.setV_dt (s : State) (x : Reg) (b : Byte) : (s.setV x b).dt = s.dt := rfl
@[simp] theorem State.setV_st (s : State) (x : Reg) (b : Byte) : (s.setV x b).st = s.st := rfl
@[simp] theorem State.setV_mem (s : State) (x : Reg) (b : Byte) : (s.setV x b).mem = s.mem := rfl
@[simp] theorem State.setV_wait (s : State) (x : Reg) (b : Byte) : (s.setV x b).wait = s.wait := rfl
@[simp] theorem State.setV_waitReg (s : State) (x : Reg) (b : Byte) : (s.setV x b).waitReg = s.waitReg := rfl
@[simp] theorem State.setV_fault (s : State) (x : Reg) (b : Byte) : (s.setV x b).fault = s.fault := rfl
@[simp] theorem State.setV_params (s : State) (x : Reg) (b : Byte) : (s.setV x b).params = s.params := rfl
@[simp] theorem State.setV_env (s : State) (x : Reg) (b : Byte) : (s.setV x b).env = s.env := rfl
@[simp] theorem State.setV_agenda (s : State) (x : Reg) (b : Byte) : (s.setV x b).agenda = s.agenda := rfl
@[simp] theorem State.setV_draws (s : State) (x : Reg) (b : Byte) : (s.setV x b).draws = s.draws := rfl
@[simp] theorem State.setV_out (s : State) (x : Reg) (b : Byte) : (s.setV x b).out = s.out := rfl
@[simp] theorem State.setV_readByte (s : State) (x : Reg) (b : Byte) (i : Nat) : (s.setV x b).readByte i = s.readByte i := rfl
@[simp] theorem State.setV_firstOob (s : State) (x : Reg) (b : Byte) (i n : Nat) : (s.setV x b).firstOob i n = s.firstOob i n := rfl

/-! ### jump -/

@[simp] theorem State.jump_v (s : State) (a : Word) : (s.jump a).v = s.v := rfl
@[simp] theorem State.jump_pc (s : State) (a : Word) : (s.jump a).pc = a := rfl
@[simp] theorem State.jump_idx (s : State) (a : Word) : (s.jump a).idx = s.idx := rfl
@[simp] theorem State.jump_sp (s : State) (a : Word) : (s.jump a).sp = s.sp := rfl
@[simp] theorem State.jump_stack (s : State) (a : Word) : (s.jump a).stack = s.stack := rfl
@[simp] theorem State.jump_depth (s : State) (a : Word) : (s.jump a).depth = s.depth := rfl
@[simp] theorem State.jump_dt (s : State) (a : Word) : (s.jump a).dt = s.dt := rfl
@[simp] theorem State.jump_st (s : State) (a : Word) : (s.jump a).st = s.st := rfl
@[simp] theorem State.jump_mem (s : State) (a : Word) : (s.jump a).mem = s.mem := rfl
@[simp] theorem State.jump_wait (s : State) (a : Word) : (s.jump a).wait = s.wait := rfl
@[simp] theorem State.jump_waitReg (s : State) (a : Word) : (s.jump a).waitReg = s.waitReg := rfl
@[simp] theorem State.jump_fault (s : State) (a : Word) : (s.jump a).fault = s.fault := rfl
@[simp] theorem State.jump_params (s : State) (a : Word) : (s.jump a).params = s.params := rfl
@[simp] theorem State.jump_env (s : State) (a : Word) : (s.jump a).env = s.env := rfl
@[simp] theorem State.jump_agenda (s : State) (a : Word) : (s.jump a).agenda = s.agenda := rfl
@[simp] theorem State.jump_draws (s : State) (a : Word) : (s.jump a).draws = s.draws := rfl
@[simp] theorem State.jump_out (s : State) (a : Word) : (s.jump a).out = s.out := rfl
@[simp] theorem State.jump_getV (s : State) (a : Word) (r : Reg) : (s.jump a).getV r = s.getV r := rfl
@[simp] theorem State.jump_readByte (s : State) (a : Word) (i : Nat) : (s.jump a).readByte i = s.readByte i := rfl
@[simp] theorem State.jump_firstOob (s : State) (a : Word) (i n : Nat) : (s.jump a).firstOob i n = s.firstOob i n := rfl

/-! ### advance -/

@[simp] theorem State.advance_v (s : State) : (s.advance).v = s.v := rfl
@[simp] theorem State.advance_pc (s : State) : (s.advance).pc = s.pc + 2 := rfl
@[simp] theorem State.advance_idx (s : State) : (s.advance).idx = s.idx := rfl
@[simp] theorem State.advance_sp (s : State) : (s.advance).sp = s.sp := rfl
@[simp] theorem State.advance_stack (s : State) : (s.advance).stack = s.stack := rfl
@[simp] theorem State.advance_depth (s : State) : (s.advance).depth = s.depth := rfl
@[simp] theorem State.advance_dt (s : State) : (s.advance).dt = s.dt := rfl
@[simp] theorem State.advance_st (s : State) : (s.advance).st = s.st := rfl
@[simp] theorem State.advance_mem (s : State) : (s.advance).mem = s.mem := rfl
@[simp] theorem State.advance_wait (s : State) : (s.advance).wait = s.wait := rfl
@[simp] theorem State.advance_waitReg (s : State) : (s.advance).waitReg = s.waitReg := rfl
@[simp] theorem State.advance_fault (s : State) : (s.advance).fault = s.fault := rfl
@[simp] theorem State.advance_params (s : State) : (s.advance).params = s.params := rfl
@[simp] theorem State.advance_env (s : State) : (s.advance).env = s.env := rfl
@[simp] theorem State.advance_agenda (s : State) : (s.advance).agenda = s.agenda := rfl
@[simp] theorem State.advance_draws (s : State) : (s.advance).draws = s.draws := rfl
@[simp] theorem State.advance_out (s : State) : (s.advance).out = s.out := rfl
@[simp] theorem State.advance_getV (s : State) (r : Reg) : (s.advance).getV r = s.getV r := rfl
@[simp] theorem State.advance_readByte (s : State) (i : Nat) : (s.advance).readByte i = s.readByte i := rfl
@[simp] theorem State.advance_firstOob (s : State) (i n : Nat) : (s.advance).firstOob i n = s.firstOob i n := rfl

/-! ### skipIf -/

@[simp] theorem State.skipIf_v (s : State) (c : Bool) : (s.skipIf c).v = s.v := rfl
@[simp] theorem State.skipIf_pc (s : State) (c : Bool) : (s.skipIf c).pc = if c then s.pc + 2 else s.pc := rfl
@[simp] theorem State.skipIf_idx (s : State) (c : Bool) : (s.skipIf c).idx = s.idx := rfl
@[simp] theorem State.skipIf_sp (s : State) (c : Bool) : (s.skipIf c).sp = s.sp := rfl
@[simp] theorem State.skipIf_stack (s : State) (c : Bool) : (s.skipIf c).stack = s.stack := rfl
@[simp] theorem State.skipIf_depth (s : State) (c : Bool) : (s.skipIf c).depth = s.depth := rfl
@[simp] theorem State.skipIf_dt (s : State) (c : Bool) : (s.skipIf c).dt = s.dt := rfl
@[simp] theorem State.skipIf_st (s : State) (c : Bool) : (s.skipIf c).st = s.st := rfl
@[simp] theorem State.skipIf_mem (s : State) (c : Bool) : (s.skipIf c).mem = s.mem := rfl
@[simp] theorem State.skipIf_wait (s : State) (c : Bool) : (s.skipIf c).wait = s.wait := rfl
@[simp] theorem State.skipIf_waitReg (s : State) (c : Bool) : (s.skipIf c).waitReg = s.waitReg := rfl
@[simp] theorem State.skipIf_fault (s : State) (c : Bool) : (s.skipIf c).fault = s.fault := rfl
@[simp] theorem State.skipIf_params (s : State) (c : Bool) : (s.skipIf c).params = s.params := rfl
@[simp] theorem State.skipIf_env (s : State) (c : Bool) : (s.skipIf c).env = s.env := rfl
@[simp] theorem State.skipIf_agenda (s : State) (c : Bool) : (s.skipIf c).agenda = s.agenda := rfl
@[simp] theorem State.skipIf_draws (s : State) (c : Bool) : (s.skipIf c).draws = s.draws := rfl
@[simp] theorem State.skipIf_out (s : State) (c : Bool) : (s.skipIf c).out = s.out := rfl
@[simp] theorem State.skipIf_getV (s : State) (c : Bool) (r : Reg) : (s.skipIf c).getV r = s.getV r := rfl
@[simp] theorem State.skipIf_readByte (s : State) (c : Bool) (i : Nat) : (s.skipIf c).readByte i = s.readByte i := rfl
@[simp] theorem State.skipIf_firstOob (s : State) (c : Bool) (i n : Nat) : (s.skipIf c).firstOob i n = s.firstOob i n := rfl

/-! ### setI -/

@[simp] theorem State.setI_v (s : State) (a : Word) : (s.setI a).v = s.v := rfl
@[simp] theorem State.setI_pc (s : State) (a : Word) : (s.setI a).pc = s.pc := rfl
@[simp] theorem State.setI_idx (s : State) (a : Word) : (s.setI a).idx = a := rfl
@[simp] theorem State.setI_sp (s : State) (a : Word) : (s.setI a).sp = s.sp := rfl
@[simp] theorem State.setI_stack (s : State) (a : Word) : (s.setI a).stack = s.stack := rfl
@[simp] theorem State.setI_depth (s : State) (a : Word) : (s.setI a).depth = s.depth := rfl
@[simp] theorem State.setI_dt (s : State) (a : Word) : (s.setI a).dt = s.dt := rfl
@[simp] theorem State.setI_st (s : State) (a : Word) : (s.setI a).st = s.st := rfl
@[simp] theorem State.setI_mem (s : State) (a : Word) : (s.setI a).mem = s.mem := rfl
@[simp] theorem State.setI_wait (s : State) (a : Word) : (s.setI a).wait = s.wait := rfl
@[simp] theorem State.setI_waitReg (s : State) (a : Word) : (s.setI a).waitReg = s.waitReg := rfl
@[simp] theorem State.setI_fault (s : State) (a : Word) : (s.setI a).fault = s.fault := rfl
@[simp] theorem State.setI_params (s : State) (a : Word) : (s.setI a).params = s.params := rfl
@[simp] theorem State.setI_env (s : State) (a : Word) : (s.setI a).env = s.env := rfl
@[simp] theorem State.setI_agenda (s : State) (a : Word) : (s.setI a).agenda = s.agenda := rfl
@[simp] theorem State.setI_draws (s : State) (a : Word) : (s.setI a).draws = s.draws := rfl
@[simp] theorem State.setI_out (s : State) (a : Word) : (s.setI a).out = s.out := rfl
@[simp] theorem State.setI_getV (s : State) (a : Word) (r : Reg) : (s.setI a).getV r = s.getV r := rfl
@[simp] theorem State.setI_readByte (s : State) (a : Word) (i : Nat) : (s.setI a).readByte i = s.readByte i := rfl
@[simp] theorem State.setI_firstOob (s : State) (a : Word) (i n : Nat) : (s.setI a).firstOob i n = s.firstOob i n := rfl

/-! ### setDt -/

@[simp] theorem State.setDt_v (s : State) (b : Byte) : (s.setDt b).v = s.v := rfl
@[simp] theorem State.setDt_pc (s : State) (b : Byte) : (s.setDt b).pc = s.pc := rfl
@[simp] theorem State.setDt_idx (s : State) (b : Byte) : (s.setDt b).idx = s.idx := rfl
@[simp] theorem State.setDt_sp (s : State) (b : Byte) : (s.setDt b).sp = s.sp := rfl
@[simp] theorem State.setDt_stack (s : State) (b : Byte) : (s.setDt b).stack = s.stack := rfl
@[simp] theorem State.setDt_depth (s : State) (b : Byte) : (s.setDt b).depth = s.depth := rfl
@[simp] theorem State.setDt_dt (s : State) (b : Byte) : (s.setDt b).dt = b := rfl
@[simp] theorem State.setDt_st (s : State) (b : Byte) : (s.setDt b).st = s.st := rfl
@[simp] theorem State.setDt_mem (s : State) (b : Byte) : (s.setDt b).mem = s.mem := rfl
@[simp] theorem State.setDt_wait (s : State) (b : Byte) : (s.setDt b).wait = s.wait := rfl
@[simp] theorem State.setDt_waitReg (s : State) (b : Byte) : (s.setDt b).waitReg = s.waitReg := rfl
@[simp] theorem State.setDt_fault (s : State) (b : Byte) : (s.setDt b).fault = s.fault := rfl
@[simp] theorem State.setDt_params (s : State) (b : Byte) : (s.setDt b).params = s.params := rfl
@[simp] theorem State.setDt_env (s : State) (b : Byte) : (s.setDt b).env = s.env := rfl
@[simp] theorem State.setDt_agenda (s : State) (b : Byte) : (s.setDt b).agenda = s.agenda := rfl
@[simp] theorem State.setDt_draws (s : State) (b : Byte) : (s.setDt b).draws = s.draws := rfl
@[simp] theorem State.setDt_out (s : State) (b : Byte) : (s.setDt b).out = s.out := rfl
@[simp] theorem State.setDt_getV (s : State) (b : Byte) (r : Reg) : (s.setDt b).getV r = s.getV r := rfl
@[simp] theorem State.setDt_readByte (s : State) (b : Byte) (i : Nat) : (s.setDt b).readByte i = s.readByte i := rfl
@[simp] theorem State.setDt_firstOob (s : State) (b : Byte) (i n : Nat) : (s.setDt b).firstOob i n = s.firstOob i n := rfl

/-! ### setSt -/

@[simp] theorem State.setSt_v (s : State) (b : Byte) : (s.setSt b).v = s.v := rfl
@[simp] theorem State.setSt_pc (s : State) (b : Byte) : (s.setSt b).pc = s.pc := rfl
@[simp] theorem State.setSt_idx (s : State) (b : Byte) : (s.setSt b).idx = s.idx := rfl
@[simp] theorem State.setSt_sp (s : State) (b : Byte) : (s.setSt b).sp = s.sp := rfl
@[simp] theorem State.setSt_stack (s : State) (b : Byte) : (s.setSt b).stack = s.stack := rfl
@[simp] theorem State.setSt_depth (s : State) (b : Byte) : (s.setSt b).depth = s.depth := rfl
@[simp] theorem State.setSt_dt (s : State) (b : Byte) : (s.setSt b).dt = s.dt := rfl
@[simp] theorem State.setSt_st (s : State) (b : Byte) : (s.setSt b).st = b := rfl
@[simp] theorem State.setSt_mem (s : State) (b : Byte) : (s.setSt b).mem = s.mem := rfl
@[simp] theorem State.setSt_wait (s : State) (b : Byte) : (s.setSt b).wait = s.wait := rfl
@[simp] theorem State.setSt_waitReg (s : State) (b : Byte) : (s.setSt b).waitReg = s.waitReg := rfl
@[simp] theorem State.setSt_fault (s : State) (b : Byte) : (s.setSt b).fault = s.fault := rfl
@[simp] theorem State.setSt_params (s : State) (b : Byte) : (s.setSt b).params = s.params := rfl
@[simp] theorem State.setSt_env (s : State) (b : Byte) : (s.setSt b).env = s.env := rfl
@[simp] theorem State.setSt_agenda (s : State) (b : Byte) : (s.setSt b).agenda = s.agenda := rfl
@[simp] theorem State.setSt_draws (s : State) (b : Byte) : (s.setSt b).draws = s.draws := rfl
@[simp] theorem State.setSt_out (s : State) (b : Byte) : (s.setSt b).out = s.out := rfl
@[simp] theorem State.setSt_getV (s : State) (b : Byte) (r : Reg) : (s.setSt b).getV r = s.getV r := rfl
@[simp] theorem State.setSt_readByte (s : State) (b : Byte) (i : Nat) : (s.setSt b).readByte i = s.readByte i := rfl
@[simp] theorem State.setSt_firstOob (s : State) (b : Byte) (i n : Nat) : (s.setSt b).firstOob i n = s.firstOob i n := rfl

/-! ### writeByte -/

@[simp] theorem State.writeByte_v (s : State) (a : Nat) (b : Byte) : (s.writeByte a b).v = s.v := rfl
@[simp] theorem State.writeByte_pc (s : State) (a : Nat) (b : Byte) : (s.writeByte a b).pc = s.pc := rfl
@[simp] theorem State.writeByte_idx (s : State) (a : Nat) (b : Byte) : (s.writeByte a b).idx = s.idx := rfl
@[simp] theorem State.writeByte_sp (s : State) (a : Nat) (b : Byte) : (s.writeByte a b).sp = s.sp := rfl
@[simp] theorem State.writeByte_stack (s : State) (a : Nat) (b : Byte) : (s.writeByte a b).stack = s.stack := rfl
@[simp] theorem State.writeByte_depth (s : State) (a : Nat) (b : Byte) : (s.writeByte a b).depth = s.depth := rfl
@[simp] theorem State.writeByte_dt (s : State) (a : Nat) (b : Byte) : (s.writeByte a b).dt = s.dt := rfl
@[simp] theorem State.writeByte_st (s : State) (a : Nat) (b : Byte) : (s.writeByte a b).st = s.st := rfl
@[simp] theorem State.writeByte_mem (s : State) (a : Nat) (b : Byte) : (s.writeByte a b).mem = Memory.write s.mem (memIndex a) b := rfl
@[simp] theorem State.writeByte_wait (s : State) (a : Nat) (b : Byte) : (s.writeByte a b).wait = s.wait := rfl
@[simp] theorem State.writeByte_waitReg (s : State) (a : Nat) (b : Byte) : (s.writeByte a b).waitReg = s.waitReg := rfl
@[simp] theorem State.writeByte_fault (s : State) (a : Nat) (b : Byte) : (s.writeByte a b).fault = s.fault := rfl
@[simp] theorem State.writeByte_params (s : State) (a : Nat) (b : Byte) : (s.writeByte a b).params = s.params := rfl
@[simp] theorem State.writeByte_env (s : State) (a : Nat) (b : Byte) : (s.writeByte a b).env = s.env := rfl
@[simp] theorem State.writeByte_agenda (s : State) (a : Nat) (b : Byte) : (s.writeByte a b).agenda = s.agenda := rfl
@[simp] theorem State.writeByte_draws (s : State) (a : Nat) (b : Byte) : (s.writeByte a b).draws = s.draws := rfl
@[simp] theorem State.writeByte_out (s : State) (a : Nat) (b : Byte) : (s.writeByte a b).out = s.out := rfl
@[simp] theorem State.writeByte_getV (s : State) (a : Nat) (b : Byte) (r : Reg) : (s.writeByte a b).getV r = s.getV r := rfl
@[simp] theorem State.writeByte_firstOob (s : State) (a : Nat) (b : Byte) (i n : Nat) : (s.writeByte a b).firstOob i n = s.firstOob i n := rfl

/-! ### push -/

@[simp] theorem State.push_v (s : State) (a : Word) : (s.push a).v = s.v := rfl
@[simp] theorem State.push_pc (s : State) (a : Word) : (s.push a).pc = s.pc := rfl
@[simp] theorem State.push_idx (s : State) (a : Word) : (s.push a).idx = s.idx := rfl
@[simp] theorem State.push_sp (s : State) (a : Word) : (s.push a).sp = s.sp + 1 := rfl
@[simp] theorem State.push_stack (s : State) (a : Word) : (s.push a).stack = s.stack.set s.sp.toNat a s.sp.isLt := rfl
@[simp] theorem State.push_dt (s : State) (a : Word) : (s.push a).dt = s.dt := rfl
@[simp] theorem State.push_st (s : State) (a : Word) : (s.push a).st = s.st := rfl
@[simp] theorem State.push_mem (s : State) (a : Word) : (s.push a).mem = s.mem := rfl
@[simp] theorem State.push_wait (s : State) (a : Word) : (s.push a).wait = s.wait := rfl
@[simp] theorem State.push_waitReg (s : State) (a : Word) : (s.push a).waitReg = s.waitReg := rfl
@[simp] theorem State.push_fault (s : State) (a : Word) : (s.push a).fault = s.fault := rfl
@[simp] theorem State.push_params (s : State) (a : Word) : (s.push a).params = s.params := rfl
@[simp] theorem State.push_env (s : State) (a : Word) : (s.push a).env = s.env := rfl
@[simp] theorem State.push_agenda (s : State) (a : Word) : (s.push a).agenda = s.agenda := rfl
@[simp] theorem State.push_draws (s : State) (a : Word) : (s.push a).draws = s.draws := rfl
@[simp] theorem State.push_out (s : State) (a : Word) : (s.push a).out = s.out := rfl
@[simp] theorem State.push_getV (s : State) (a : Word) (r : Reg) : (s.push a).getV r = s.getV r := rfl
@[simp] theorem State.push_readByte (s : State) (a : Word) (i : Nat) : (s.push a).readByte i = s.readByte i := rfl
@[simp] theorem State.push_firstOob (s : State) (a : Word) (i n : Nat) : (s.push a).firstOob i n = s.firstOob i n := rfl

/-! ### pop -/

@[simp] theorem State.pop_v (s : State) : (s.pop).v = s.v := rfl
@[simp] theorem State.pop_pc (s : State) : (s.pop).pc = s.pc := rfl
@[simp] theorem State.pop_idx (s : State) : (s.pop).idx = s.idx := rfl
@[simp] theorem State.pop_sp (s : State) : (s.pop).sp = s.sp - 1 := rfl
@[simp] theorem State.pop_stack (s : State) : (s.pop).stack = s.stack := rfl
@[simp] theorem State.pop_dt (s : State) : (s.pop).dt = s.dt := rfl
@[simp] theorem State.pop_st (s : State) : (s.pop).st = s.st := rfl
@[simp] theorem State.pop_mem (s : State) : (s.pop).mem = s.mem := rfl
@[simp] theorem State.pop_wait (s : State) : (s.pop).wait = s.wait := rfl
@[simp] theorem State.pop_waitReg (s : State) : (s.pop).waitReg = s.waitReg := rfl
@[simp] theorem State.pop_fault (s : State) : (s.pop).fault = s.fault := rfl
@[simp] theorem State.pop_params (s : State) : (s.pop).params = s.params := rfl
@[simp] theorem State.pop_env (s : State) : (s.pop).env = s.env := rfl
@[simp] theorem State.pop_agenda (s : State) : (s.pop).agenda = s.agenda := rfl
@[simp] theorem State.pop_draws (s : State) : (s.pop).draws = s.draws := rfl
@[simp] theorem State.pop_out (s : State) : (s.pop).out = s.out := rfl
@[simp] theorem State.pop_getV (s : State) (r : Reg) : (s.pop).getV r = s.getV r := rfl
@[simp] theorem State.pop_readByte (s : State) (i : Nat) : (s.pop).readByte i = s.readByte i := rfl
@[simp] theorem State.pop_firstOob (s : State) (i n : Nat) : (s.pop).firstOob i n = s.firstOob i n := rfl

/-! ### emit -/

@[simp] theorem State.emit_v (s : State) (c : Command) : (s.emit c).v = s.v := rfl
@[simp] theorem State.emit_pc (s : State) (c : Command) : (s.emit c).pc = s.pc := rfl
@[simp] theorem State.emit_idx (s : State) (c : Command) : (s.emit c).idx = s.idx := rfl
@[simp] theorem State.emit_sp (s : State) (c : Command) : (s.emit c).sp = s.sp := rfl
@[simp] theorem State.emit_stack (s : State) (c : Command) : (s.emit c).stack = s.stack := rfl
@[simp] theorem State.emit_depth (s : State) (c : Command) : (s.emit c).depth = s.depth := rfl
@[simp] theorem State.emit_dt (s : State) (c : Command) : (s.emit c).dt = s.dt := rfl
@[simp] theorem State.emit_st (s : State) (c : Command) : (s.emit c).st = s.st := rfl
@[simp] theorem State.emit_mem (s : State) (c : Command) : (s.emit c).mem = s.mem := rfl
@[simp] theorem State.emit_wait (s : State) (c : Command) : (s.emit c).wait = s.wait := rfl
@[simp] theorem State.emit_waitReg (s : State) (c : Command) : (s.emit c).waitReg = s.waitReg := rfl
@[simp] theorem State.emit_fault (s : State) (c : Command) : (s.emit c).fault = s.fault := rfl
@[simp] theorem State.emit_params (s : State) (c : Command) : (s.emit c).params = s.params := rfl
@[simp] theorem State.emit_env (s : State) (c : Command) : (s.emit c).env = s.env := rfl
@[simp] theorem State.emit_agenda (s : State) (c : Command) : (s.emit c).agenda = s.agenda := rfl
@[simp] theorem State.emit_draws (s : State) (c : Command) : (s.emit c).draws = s.draws := rfl
@[simp] theorem State.emit_out (s : State) (c : Command) : (s.emit c).out = c :: s.out := rfl
@[simp] theorem State.emit_getV (s : State) (c : Command) (r : Reg) : (s.emit c).getV r = s.getV r := rfl
@[simp] theorem State.emit_readByte (s : State) (c : Command) (i : Nat) : (s.emit c).readByte i = s.readByte i := rfl
@[simp] theorem State.emit_firstOob (s : State) (c : Command) (i n : Nat) : (s.emit c).firstOob i n = s.firstOob i n := rfl

/-! ### latch -/

@[simp] theorem State.latch_v (s : State) (c : FaultCause) (w : Option Word) : (s.latch c w).v = s.v := rfl
@[simp] theorem State.latch_pc (s : State) (c : FaultCause) (w : Option Word) : (s.latch c w).pc = s.pc := rfl
@[simp] theorem State.latch_idx (s : State) (c : FaultCause) (w : Option Word) : (s.latch c w).idx = s.idx := rfl
@[simp] theorem State.latch_sp (s : State) (c : FaultCause) (w : Option Word) : (s.latch c w).sp = s.sp := rfl
@[simp] theorem State.latch_stack (s : State) (c : FaultCause) (w : Option Word) : (s.latch c w).stack = s.stack := rfl
@[simp] theorem State.latch_depth (s : State) (c : FaultCause) (w : Option Word) : (s.latch c w).depth = s.depth := rfl
@[simp] theorem State.latch_dt (s : State) (c : FaultCause) (w : Option Word) : (s.latch c w).dt = s.dt := rfl
@[simp] theorem State.latch_st (s : State) (c : FaultCause) (w : Option Word) : (s.latch c w).st = s.st := rfl
@[simp] theorem State.latch_mem (s : State) (c : FaultCause) (w : Option Word) : (s.latch c w).mem = s.mem := rfl
@[simp] theorem State.latch_wait (s : State) (c : FaultCause) (w : Option Word) : (s.latch c w).wait = s.wait := rfl
@[simp] theorem State.latch_waitReg (s : State) (c : FaultCause) (w : Option Word) : (s.latch c w).waitReg = s.waitReg := rfl
@[simp] theorem State.latch_fault (s : State) (c : FaultCause) (w : Option Word) : (s.latch c w).fault = some { cause := c, pc := s.pc, word := w } := rfl
@[simp] theorem State.latch_params (s : State) (c : FaultCause) (w : Option Word) : (s.latch c w).params = s.params := rfl
@[simp] theorem State.latch_env (s : State) (c : FaultCause) (w : Option Word) : (s.latch c w).env = s.env := rfl
@[simp] theorem State.latch_agenda (s : State) (c : FaultCause) (w : Option Word) : (s.latch c w).agenda = s.agenda := rfl
@[simp] theorem State.latch_draws (s : State) (c : FaultCause) (w : Option Word) : (s.latch c w).draws = s.draws := rfl
@[simp] theorem State.latch_out (s : State) (c : FaultCause) (w : Option Word) : (s.latch c w).out = s.out := rfl
@[simp] theorem State.latch_getV (s : State) (c : FaultCause) (w : Option Word) (r : Reg) : (s.latch c w).getV r = s.getV r := rfl
@[simp] theorem State.latch_readByte (s : State) (c : FaultCause) (w : Option Word) (i : Nat) : (s.latch c w).readByte i = s.readByte i := rfl
@[simp] theorem State.latch_firstOob (s : State) (c : FaultCause) (w : Option Word) (i n : Nat) : (s.latch c w).firstOob i n = s.firstOob i n := rfl

/-! ### setFlag -/

@[simp] theorem State.setFlag_v (s : State) (f : Bool) : (s.setFlag f).v = s.v.set 15 (flagByte f) := rfl
@[simp] theorem State.setFlag_pc (s : State) (f : Bool) : (s.setFlag f).pc = s.pc := rfl
@[simp] theorem State.setFlag_idx (s : State) (f : Bool) : (s.setFlag f).idx = s.idx := rfl
@[simp] theorem State.setFlag_sp (s : State) (f : Bool) : (s.setFlag f).sp = s.sp := rfl
@[simp] theorem State.setFlag_stack (s : State) (f : Bool) : (s.setFlag f).stack = s.stack := rfl
@[simp] theorem State.setFlag_depth (s : State) (f : Bool) : (s.setFlag f).depth = s.depth := rfl
@[simp] theorem State.setFlag_dt (s : State) (f : Bool) : (s.setFlag f).dt = s.dt := rfl
@[simp] theorem State.setFlag_st (s : State) (f : Bool) : (s.setFlag f).st = s.st := rfl
@[simp] theorem State.setFlag_mem (s : State) (f : Bool) : (s.setFlag f).mem = s.mem := rfl
@[simp] theorem State.setFlag_wait (s : State) (f : Bool) : (s.setFlag f).wait = s.wait := rfl
@[simp] theorem State.setFlag_waitReg (s : State) (f : Bool) : (s.setFlag f).waitReg = s.waitReg := rfl
@[simp] theorem State.setFlag_fault (s : State) (f : Bool) : (s.setFlag f).fault = s.fault := rfl
@[simp] theorem State.setFlag_params (s : State) (f : Bool) : (s.setFlag f).params = s.params := rfl
@[simp] theorem State.setFlag_env (s : State) (f : Bool) : (s.setFlag f).env = s.env := rfl
@[simp] theorem State.setFlag_agenda (s : State) (f : Bool) : (s.setFlag f).agenda = s.agenda := rfl
@[simp] theorem State.setFlag_draws (s : State) (f : Bool) : (s.setFlag f).draws = s.draws := rfl
@[simp] theorem State.setFlag_out (s : State) (f : Bool) : (s.setFlag f).out = s.out := rfl
@[simp] theorem State.setFlag_readByte (s : State) (f : Bool) (i : Nat) : (s.setFlag f).readByte i = s.readByte i := rfl
@[simp] theorem State.setFlag_firstOob (s : State) (f : Bool) (i n : Nat) : (s.setFlag f).firstOob i n = s.firstOob i n := rfl

/-! ### loadRegs -/

@[simp] theorem State.loadRegs_pc (s : State) (a k : Nat) : (s.loadRegs a k).pc = s.pc := rfl
@[simp] theorem State.loadRegs_idx (s : State) (a k : Nat) : (s.loadRegs a k).idx = s.idx := rfl
@[simp] theorem State.loadRegs_sp (s : State) (a k : Nat) : (s.loadRegs a k).sp = s.sp := rfl
@[simp] theorem State.loadRegs_stack (s : State) (a k : Nat) : (s.loadRegs a k).stack = s.stack := rfl
@[simp] theorem State.loadRegs_depth (s : State) (a k : Nat) : (s.loadRegs a k).depth = s.depth := rfl
@[simp] theorem State.loadRegs_dt (s : State) (a k : Nat) : (s.loadRegs a k).dt = s.dt := rfl
@[simp] theorem State.loadRegs_st (s : State) (a k : Nat) : (s.loadRegs a k).st = s.st := rfl
@[simp] theorem State.loadRegs_mem (s : State) (a k : Nat) : (s.loadRegs a k).mem = s.mem := rfl
@[simp] theorem State.loadRegs_wait (s : State) (a k : Nat) : (s.loadRegs a k).wait = s.wait := rfl
@[simp] theorem State.loadRegs_waitReg (s : State) (a k : Nat) : (s.loadRegs a k).waitReg = s.waitReg := rfl
@[simp] theorem State.loadRegs_fault (s : State) (a k : Nat) : (s.loadRegs a k).fault = s.fault := rfl
@[simp] theorem State.loadRegs_params (s : State) (a k : Nat) : (s.loadRegs a k).params = s.params := rfl
@[simp] theorem State.loadRegs_env (s : State) (a k : Nat) : (s.loadRegs a k).env = s.env := rfl
@[simp] theorem State.loadRegs_agenda (s : State) (a k : Nat) : (s.loadRegs a k).agenda = s.agenda := rfl
@[simp] theorem State.loadRegs_draws (s : State) (a k : Nat) : (s.loadRegs a k).draws = s.draws := rfl
@[simp] theorem State.loadRegs_out (s : State) (a k : Nat) : (s.loadRegs a k).out = s.out := rfl
@[simp] theorem State.loadRegs_readByte (s : State) (a k : Nat) (i : Nat) : (s.loadRegs a k).readByte i = s.readByte i := rfl
@[simp] theorem State.loadRegs_firstOob (s : State) (a k : Nat) (i n : Nat) : (s.loadRegs a k).firstOob i n = s.firstOob i n := rfl

/-! ### tickTimers -/

@[simp] theorem State.tickTimers_v (s : State) : (s.tickTimers).v = s.v := rfl
@[simp] theorem State.tickTimers_pc (s : State) : (s.tickTimers).pc = s.pc := rfl
@[simp] theorem State.tickTimers_idx (s : State) : (s.tickTimers).idx = s.idx := rfl
@[simp] theorem State.tickTimers_sp (s : State) : (s.tickTimers).sp = s.sp := rfl
@[simp] theorem State.tickTimers_stack (s : State) : (s.tickTimers).stack = s.stack := rfl
@[simp] theorem State.tickTimers_depth (s : State) : (s.tickTimers).depth = s.depth := rfl
@[simp] theorem State.tickTimers_dt (s : State) : (s.tickTimers).dt = countDown s.dt := rfl
@[simp] theorem State.tickTimers_st (s : State) : (s.tickTimers).st = countDown s.st := rfl
@[simp] theorem State.tickTimers_mem (s : State) : (s.tickTimers).mem = s.mem := rfl
@[simp] theorem State.tickTimers_wait (s : State) : (s.tickTimers).wait = s.wait := rfl
@[simp] theorem State.tickTimers_waitReg (s : State) : (s.tickTimers).waitReg = s.waitReg := rfl
@[simp] theorem State.tickTimers_fault (s : State) : (s.tickTimers).fault = s.fault := rfl
@[simp] theorem State.tickTimers_params (s : State) : (s.tickTimers).params = s.params := rfl
@[simp] theorem State.tickTimers_env (s : State) : (s.tickTimers).env = s.env := rfl
@[simp] theorem State.tickTimers_agenda (s : State) : (s.tickTimers).agenda = s.agenda := rfl
@[simp] theorem State.tickTimers_draws (s : State) : (s.tickTimers).draws = s.draws := rfl
@[simp] theorem State.tickTimers_out (s : State) : (s.tickTimers).out = s.out := rfl
@[simp] theorem State.tickTimers_getV (s : State) (r : Reg) : (s.tickTimers).getV r = s.getV r := rfl
@[simp] theorem State.tickTimers_readByte (s : State) (i : Nat) : (s.tickTimers).readByte i = s.readByte i := rfl
@[simp] theorem State.tickTimers_firstOob (s : State) (i n : Nat) : (s.tickTimers).firstOob i n = s.firstOob i n := rfl

/-! ### storeBytes -/

@[simp] theorem State.storeBytes_v (s : State) (a : Nat) (bs : List Byte) : (s.storeBytes a bs).v = s.v := by
  induction bs generalizing s a with
  | nil => rfl
  | cons b bs ih => rw [State.storeBytes, ih, State.writeByte_v]
@[simp] theorem State.storeBytes_pc (s : State) (a : Nat) (bs : List Byte) : (s.storeBytes a bs).pc = s.pc := by
  induction bs generalizing s a with
  | nil => rfl
  | cons b bs ih => rw [State.storeBytes, ih, State.writeByte_pc]
@[simp] theorem State.storeBytes_idx (s : State) (a : Nat) (bs : List Byte) : (s.storeBytes a bs).idx = s.idx := by
  induction bs generalizing s a with
  | nil => rfl
  | cons b bs ih => rw [State.storeBytes, ih, State.writeByte_idx]
@[simp] theorem State.storeBytes_sp (s : State) (a : Nat) (bs : List Byte) : (s.storeBytes a bs).sp = s.sp := by
  induction bs generalizing s a with
  | nil => rfl
  | cons b bs ih => rw [State.storeBytes, ih, State.writeByte_sp]
@[simp] theorem State.storeBytes_stack (s : State) (a : Nat) (bs : List Byte) : (s.storeBytes a bs).stack = s.stack := by
  induction bs generalizing s a with
  | nil => rfl
  | cons b bs ih => rw [State.storeBytes, ih, State.writeByte_stack]
@[simp] theorem State.storeBytes_depth (s : State) (a : Nat) (bs : List Byte) : (s.storeBytes a bs).depth = s.depth := by
  induction bs generalizing s a with
  | nil => rfl
  | cons b bs ih => rw [State.storeBytes, ih, State.writeByte_depth]
@[simp] theorem State.storeBytes_dt (s : State) (a : Nat) (bs : List Byte) : (s.storeBytes a bs).dt = s.dt := by
  induction bs generalizing s a with
  | nil => rfl
  | cons b bs ih => rw [State.storeBytes, ih, State.writeByte_dt]
@[simp] theorem State.storeBytes_st (s : State) (a : Nat) (bs : List Byte) : (s.storeBytes a bs).st = s.st := by
  induction bs generalizing s a with
  | nil => rfl
  | cons b bs ih => rw [State.storeBytes, ih, State.writeByte_st]
@[simp] theorem State.storeBytes_wait (s : State) (a : Nat) (bs : List Byte) : (s.storeBytes a bs).wait = s.wait := by
  induction bs generalizing s a with
  | nil => rfl
  | cons b bs ih => rw [State.storeBytes, ih, State.writeByte_wait]
@[simp] theorem State.storeBytes_waitReg (s : State) (a : Nat) (bs : List Byte) : (s.storeBytes a bs).waitReg = s.waitReg := by
  induction bs generalizing s a with
  | nil => rfl
  | cons b bs ih => rw [State.storeBytes, ih, State.writeByte_waitReg]
@[simp] theorem State.storeBytes_fault (s : State) (a : Nat) (bs : List Byte) : (s.storeBytes a bs).fault = s.fault := by
  induction bs generalizing s a with
  | nil => rfl
  | cons b bs ih => rw [State.storeBytes, ih, State.writeByte_fault]
@[simp] theorem State.storeBytes_params (s : State) (a : Nat) (bs : List Byte) : (s.storeBytes a bs).params = s.params := by
  induction bs generalizing s a with
  | nil => rfl
  | cons b bs ih => rw [State.storeBytes, ih, State.writeByte_params]
@[simp] theorem State.storeBytes_env (s : State) (a : Nat) (bs : List Byte) : (s.storeBytes a bs).env = s.env := by
  induction bs generalizing s a with
  | nil => rfl
  | cons b bs ih => rw [State.storeBytes, ih, State.writeByte_env]
@[simp] theorem State.storeBytes_agenda (s : State) (a : Nat) (bs : List Byte) : (s.storeBytes a bs).agenda = s.agenda := by
  induction bs generalizing s a with
  | nil => rfl
  | cons b bs ih => rw [State.storeBytes, ih, State.writeByte_agenda]
@[simp] theorem State.storeBytes_draws (s : State) (a : Nat) (bs : List Byte) : (s.storeBytes a bs).draws = s.draws := by
  induction bs generalizing s a with
  | nil => rfl
  | cons b bs ih => rw [State.storeBytes, ih, State.writeByte_draws]
@[simp] theorem State.storeBytes_out (s : State) (a : Nat) (bs : List Byte) : (s.storeBytes a bs).out = s.out := by
  induction bs generalizing s a with
  | nil => rfl
  | cons b bs ih => rw [State.storeBytes, ih, State.writeByte_out]
@[simp] theorem State.storeBytes_getV (s : State) (a : Nat) (bs : List Byte) (r : Reg) :
    (s.storeBytes a bs).getV r = s.getV r := by
  simp only [State.getV, State.storeBytes_v]

/-! ### Registers -/

/-- Reading a V register after writing one. -/
@[simp] theorem State.getV_setV (s : State) (x r : Reg) (b : Byte) :
    (s.setV x b).getV r = if r = x then b else s.getV r := by
  unfold State.getV State.setV
  by_cases h : r = x
  · subst h; simp
  · have hn : x.toNat ≠ r.toNat := fun e => h (BitVec.eq_of_toNat_eq e).symm
    simp [h, Vector.getElem_set_ne _ _ hn]

/-- Reading a V register after the flag write. -/
@[simp] theorem State.getV_setFlag (s : State) (r : Reg) (f : Bool) :
    (s.setFlag f).getV r = if r = VF then flagByte f else s.getV r :=
  State.getV_setV s VF r (flagByte f)

/-- Reading a V register after the block load. -/
@[simp] theorem State.getV_loadRegs (s : State) (a n : Nat) (r : Reg) :
    (s.loadRegs a n).getV r = if r.toNat ≤ n then s.readByte (a + r.toNat) else s.getV r := by
  simp [State.getV, State.loadRegs]

/-- Two register files that agree at every index are equal. -/
theorem regs_ext {v v' : Vector Byte 16} (h : ∀ r : Reg, v[r.toNat]'r.isLt = v'[r.toNat]'r.isLt) : v = v' := by
  apply Vector.ext
  intro j hj
  have e := h (BitVec.ofNat 4 j)
  simp only [BitVec.toNat_ofNat, Nat.mod_eq_of_lt hj] at e
  exact e

/-! ### The stack counter -/

@[simp] theorem State.push_depth (s : State) (a : Word) :
    (s.push a).depth = match s.params.stackPolicy with | .wrap => s.depth | .fault => s.depth + 1 := rfl
@[simp] theorem State.pop_depth (s : State) :
    s.pop.depth = match s.params.stackPolicy with | .wrap => s.depth | .fault => s.depth - 1 := rfl

end Sys2Proof.Machine
end

