-- ==== Sys2Proof/Laws/Ops.lean ====
section
/-!
SUPPORT. One lemma for each shared operation that says everything it can do: the access check, a raised fault, the block
accesses, the stack primitives, and one transition of the machine. Later proofs cite these and unfold nothing.
-/

namespace Sys2Proof.Machine

/-! ### The access check (20_memory.md rules R41, R42) -/

/-- Under the policy `mask` no access faults (R41). -/
theorem State.firstOob_mask {s : State} (h : s.params.memPolicy = .mask) (base count : Nat) :
    s.firstOob base count = none := by
  unfold State.firstOob
  rw [h]

/-- What a failed check means: the policy is `fault` and the address is the lowest one above 4095 in the range. -/
theorem State.firstOob_some {s : State} {base count a : Nat} (h : s.firstOob base count = some a) :
    s.params.memPolicy = .fault ∧ 4095 < a ∧ base ≤ a ∧ a < base + count ∧ ∀ b, base ≤ b → b < a → b ≤ 4095 := by
  unfold State.firstOob at h
  split at h
  · exact absurd h (by simp)
  · next hp =>
    refine ⟨hp, ?_⟩
    obtain ⟨ha, as, bs, hl, hnot⟩ := List.find?_eq_some_iff_append.mp h
    have hmem : a ∈ (List.range count).map (base + ·) := by rw [hl]; simp
    obtain ⟨k, hk, rfl⟩ := List.mem_map.mp hmem
    have hk := List.mem_range.mp hk
    refine ⟨by simpa using ha, by omega, by omega, fun b hb hlt => ?_⟩
    have hpos : as.length = k := by
      have e := congrArg (fun l => l[as.length]?) hl
      simp only [List.getElem?_map, List.getElem?_append_right (Nat.le_refl _), Nat.sub_self, List.getElem?_cons_zero,
        Option.map_eq_some_iff] at e
      obtain ⟨j, hj, hjk⟩ := e
      obtain ⟨hj1, hj2⟩ := List.getElem?_eq_some_iff.mp hj
      simp at hj2
      omega
    have hb' : b ∈ as := by
      have e := congrArg (fun l => l[b - base]?) hl
      have hlt' : b - base < as.length := by omega
      simp only [List.getElem?_append_left hlt', List.getElem?_map] at e
      rw [List.getElem?_range (by omega)] at e
      have := List.mem_of_getElem? e.symm
      simpa [Nat.add_sub_cancel' hb] using this
    simpa using hnot b hb'

/-- What a passed check means: under the policy `fault`, every address of the range is below 4096. -/
theorem State.firstOob_none {s : State} {base count : Nat} (h : s.firstOob base count = none)
    (hp : s.params.memPolicy = .fault) : ∀ k < count, base + k ≤ 4095 := by
  unfold State.firstOob at h
  rw [hp] at h
  intro k hk
  simpa using List.find?_eq_none.mp h (base + k) (by simpa using hk)

/-- When the check passes: the policy is `mask`, there is nothing to access, or the last address is below 4096. -/
theorem State.firstOob_passes {s : State} {base count : Nat}
    (h : s.params.memPolicy = .mask ∨ count = 0 ∨ base + count - 1 ≤ 4095) : s.firstOob base count = none := by
  rcases hx : s.firstOob base count with _ | a
  · rfl
  · obtain ⟨hp, h1, h2, h3, -⟩ := State.firstOob_some hx
    rcases h with h | h | h
    · simp [h] at hp
    all_goals omega

/-- When the check fails, and at which address: the first of the range that is above 4095 (R42, R138). -/
theorem State.firstOob_fails {s : State} {base count : Nat} (hp : s.params.memPolicy = .fault) (hc : 1 ≤ count)
    (h : 4095 < base + count - 1) : s.firstOob base count = some (max base 4096) := by
  rcases hx : s.firstOob base count with _ | a
  · have := State.firstOob_none hx hp (count - 1) (by omega)
    omega
  · obtain ⟨-, h1, h2, -, h4⟩ := State.firstOob_some hx
    have h5 := h4 base (Nat.le_refl _)
    have h6 := h4 4096
    congr 1
    omega

/-- Everything an accessing instruction can do: it ends in `k`, or it latches a `MemoryFault` at the lowest faulting
address and changes nothing else. It never stops. -/
theorem accessing_cases {i : Instr} {count : Nat} {s k t : State} (h : accessing i count s k = .next t) :
    (s.firstOob s.idx.toNat count = none ∧ t = k) ∨
    ∃ a, s.firstOob s.idx.toNat count = some a ∧ t = s.latch (.memory a) (some (encode i)) := by
  unfold accessing at h
  split at h
  · next a ha => exact .inr ⟨a, ha, by simpa [raise] using h.symm⟩
  · next hn => exact .inl ⟨hn, by simpa using h.symm⟩

/-- The form an accessing instruction answers with when the check passes. -/
theorem accessing_pass {s : State} {count : Nat} (h : s.firstOob s.idx.toNat count = none) (i : Instr) (k : State) :
    accessing i count s k = .next k := by
  unfold accessing
  rw [h]

/-- The form an accessing instruction answers with when the check fails. -/
theorem accessing_fail {s : State} {count a : Nat} (h : s.firstOob s.idx.toNat count = some a) (i : Instr) (k : State) :
    accessing i count s k = .next (s.latch (.memory a) (some (encode i))) := by
  unfold accessing
  rw [h]
  rfl

/-! ### Block accesses -/

/-- The bytes read from a range, one by one (R45). -/
theorem State.bytesAt_getElem (s : State) (base count k : Nat) (h : k < (s.bytesAt base count).length) :
    (s.bytesAt base count)[k] = s.readByte (base + k) := by
  simp [State.bytesAt]

theorem State.bytesAt_length (s : State) (base count : Nat) : (s.bytesAt base count).length = count := by
  simp [State.bytesAt]

/-- `LdMemReg(x)` stores `x + 1` bytes (R109). -/
theorem State.regsUpTo_length (s : State) (x : Reg) : (s.regsUpTo x).length = x.toNat + 1 := by
  have := x.isLt
  simp [State.regsUpTo]
  omega

/-- Byte `r` of what `LdMemReg(x)` stores is `V[r]`. -/
theorem State.regsUpTo_getElem (s : State) (x r : Reg) (h : r.toNat < (s.regsUpTo x).length) :
    (s.regsUpTo x)[r.toNat] = s.getV r := by
  simp [State.regsUpTo, State.getV]

/-- A store changes memory only. -/
theorem State.storeBytes_eq (s : State) (base : Nat) (bs : List Byte) :
    s.storeBytes base bs = { s with mem := (s.storeBytes base bs).mem } := by
  induction bs generalizing s base with
  | nil => rfl
  | cons b bs ih => exact (ih (s.writeByte base b) (base + 1)).trans rfl

/-! ### The stack (10_state.md rule R27) -/

/-- `Pop()` right after `Push(v)` gives `v` back. -/
theorem State.top_push (s : State) (a : Word) : (s.push a).top = a := by
  unfold State.top
  simp

/-- The pointer is where it was after a push and a pop. -/
theorem State.sp_push_pop (s : State) (a : Word) : (s.push a).pop.sp = s.sp := by
  simp

/-! ### One transition -/

/-- Everything a step that runs an instruction, or fails to, can do (40_control_flow.md rule R76). -/
theorem fetchExecute_cases {s t : State} (h : fetchExecute s = .next t) :
    (∃ a, s.fetchWord = .error a ∧ t = s.latch (.memory a) none) ∨
    (∃ w e, s.fetchWord = .ok w ∧ decode w = .error e ∧ t = s.latch .decode (some w)) ∨
    ∃ w i, s.fetchWord = .ok w ∧ decode w = .ok i ∧ exec i s = .next t := by
  unfold fetchExecute at h
  split at h
  · next a ha => exact .inl ⟨a, ha, by simpa using h.symm⟩
  · next w hw =>
    split at h
    · next e he => exact .inr (.inl ⟨w, e, hw, he, by simpa using h.symm⟩)
    · next i hi => exact .inr (.inr ⟨w, i, hw, hi, h⟩)

/-- A `Step` of a machine that is neither halted nor waiting fetches and executes (R76). -/
theorem stepEvent_run {env : Env} {s : State} (hf : s.fault = none) (hw : s.wait = false) :
    stepEvent env s = fetchExecute { s with env := env } := by
  have h1 : ¬({ s with env := env } : State).fault.isSome = true := by simp [hf]
  have h2 : ¬({ s with env := env } : State).wait = true := by simp [hw]
  unfold stepEvent
  simp only
  rw [if_neg h1, if_neg h2]

/-- Everything a `Step` can do (R76): nothing while halted, the key-wait step while waiting, else fetch and execute. -/
theorem stepEvent_cases {env : Env} {s t : State} (h : stepEvent env s = .next t) :
    (s.fault.isSome = true ∧ t = { s with env := env }) ∨
    (s.fault = none ∧ s.wait = true ∧ t = State.keyWait { s with env := env }) ∨
    (s.fault = none ∧ s.wait = false ∧ fetchExecute { s with env := env } = .next t) := by
  unfold stepEvent at h
  simp only at h
  split at h
  · next hf => exact .inl ⟨hf, by simpa using h.symm⟩
  · next hf =>
    have hf : s.fault = none := by simpa using hf
    split at h
    · next hw => exact .inr (.inl ⟨hf, hw, by simpa using h.symm⟩)
    · next hw => exact .inr (.inr ⟨hf, by simpa using hw, h⟩)

/-- Everything an instruction can do to the fault latch: raise a fault, which changes nothing else and records its own
encoding (R135), or leave the latch as it was. -/
theorem exec_fault_cases {i : Instr} {s t : State} (h : exec i s = .next t) :
    (∃ c, t = s.latch c (some (encode i))) ∨ t.fault = s.fault := by
  cases i <;> simp only [exec] at h
  case ret =>
    unfold execRet raise at h
    split at h <;> cases h
    · exact .inl ⟨_, rfl⟩
    · exact .inr rfl
  case call =>
    unfold execCall raise at h
    split at h <;> cases h
    · exact .inl ⟨_, rfl⟩
    · exact .inr rfl
  case skp =>
    unfold execSkp raise at h
    split at h <;> cases h
    · exact .inl ⟨_, rfl⟩
    · exact .inr rfl
  case sknp =>
    unfold execSknp raise at h
    split at h <;> cases h
    · exact .inl ⟨_, rfl⟩
    · exact .inr rfl
  case drw | ldBcd | ldMemReg | ldRegMem =>
    obtain ⟨-, rfl⟩ | ⟨a, -, rfl⟩ := accessing_cases h
    · exact .inr (by simp)
    · exact .inl ⟨_, rfl⟩
  case addI =>
    cases h
    right
    split <;> rfl
  all_goals
    cases h
    exact .inr rfl

/-- Everything one transition can do: the three events (00_scope.md rule R8). -/
theorem step_cases {s t : State} (h : step s = .next t) :
    (s.nextEvent = .reset ∧ t = s.takeEvent.resetCore) ∨
    (s.nextEvent = .tick ∧ t = s.takeEvent.tickTimers) ∨
    ∃ env, s.nextEvent = .step env ∧ stepEvent env s.takeEvent = .next t := by
  unfold step applyEvent at h
  split at h
  · next he => exact .inl ⟨he, by simpa using h.symm⟩
  · next env he => exact .inr (.inr ⟨env, he, h⟩)
  · next he => exact .inr (.inl ⟨he, by simpa using h.symm⟩)

/-- Taking the next event changes only the agenda and the count of free draws. -/
theorem State.takeEvent_eq (s : State) :
    s.takeEvent = { s with agenda := s.takeEvent.agenda, draws := s.takeEvent.draws } := by
  unfold State.takeEvent
  split <;> rfl

/-- With the agenda empty the next event is the free one, and it counts as drawn (R119). -/
theorem State.nextEvent_free {s : State} (h : s.agenda = []) :
    s.nextEvent = freeEvent s.draws ∧ s.takeEvent = { s with draws := s.draws + 1 } := by
  unfold State.nextEvent State.takeEvent
  rw [h]
  exact ⟨rfl, rfl⟩

/-- A free event is one of the three, whichever kind the environment draws (R8). -/
theorem freeEvent_cases (k : Nat) : freeEvent k = .step (freeEnv k) ∨ freeEvent k = .tick ∨ freeEvent k = .reset := by
  unfold freeEvent
  split <;> simp

/-- What letting the next event be a `Step` can do: only the agenda and the count of draws change, and a `Step` comes
first. -/
theorem State.stepNext_eq (s : State) :
    (∃ env, s.stepNext.nextEvent = .step env) ∧
      s.stepNext = { s with agenda := s.stepNext.agenda, draws := s.stepNext.draws } := by
  unfold State.stepNext
  split
  · exact ⟨⟨_, rfl⟩, rfl⟩
  · next e rest h =>
    refine ⟨?_, rfl⟩
    have hs : (!e.isStep) = false := by
      simpa [h] using List.head?_dropWhile_not (fun e : Event => !e.isStep) s.agenda
    cases e <;> simp [Event.isStep] at hs
    exact ⟨_, rfl⟩

/-- The key-wait step without a key changes nothing (R126). -/
theorem State.keyWait_none {s : State} (h : s.env.keyEvent = none) : s.keyWait = s := by
  unfold State.keyWait
  rw [h]

/-- The key-wait step with a key delivers it and ends the wait (R126). -/
theorem State.keyWait_some {s : State} {k : Nibble} (h : s.env.keyEvent = some k) :
    s.keyWait = { s.setV s.waitReg (k.setWidth 8) with wait := false } := by
  unfold State.keyWait
  rw [h]

end Sys2Proof.Machine
end

