-- ==== Sys2Proof/Laws/PerInstr.lean ====
section
/-!
SUPPORT. One lemma per constructor of `Instr`: the term that spells an instruction (30_encoding.md rule R72) is well
formed and spells that instruction back, and the word that encodes it lies in that instruction's row of the opcode map
(R65).
-/

namespace Sys2Proof.Laws.Encoding

/-- The spelling of `i` is a well-formed term for `i`, and the word of `i` is selected by the row of `i`'s mnemonic. -/
def Statement (i : Instr) : Prop :=
  i.term.instr = some i ∧ ∃ r ∈ opcodeMap, r.mnemonic = i.mnemonic ∧ r.selects (encode i) = true

/-! ### One lemma per format (R63) -/

theorem selects_nnn (m : Mnemonic) (o : BitVec 4) (a : Addr12) :
    (OpcodeRow.mk m 0xF000 (o ++ 0x000#12)).selects (o ++ a) = true := by
  unfold OpcodeRow.selects
  exact beq_iff_eq.mpr (mask_nnn o a)

theorem selects_xkk (m : Mnemonic) (o : BitVec 4) (x : Reg) (kk : Byte) :
    (OpcodeRow.mk m 0xF000 (o ++ 0x000#12)).selects (o ++ x ++ kk) = true := by
  rw [BitVec.append_assoc]
  exact selects_nnn m o (x ++ kk)

theorem selects_xyn (m : Mnemonic) (o : BitVec 4) (x y : Reg) (n : Nibble) :
    (OpcodeRow.mk m 0xF000 (o ++ 0x000#12)).selects (o ++ x ++ y ++ n) = true := by
  rw [xyn_eq_xkk]
  exact selects_xkk m o x (y ++ n)

theorem selects_xy (m : Mnemonic) (o : BitVec 4) (x y : Reg) (n : Nibble) :
    (OpcodeRow.mk m 0xF00F (o ++ 0x0#4 ++ 0x0#4 ++ n)).selects (o ++ x ++ y ++ n) = true := by
  unfold OpcodeRow.selects
  exact beq_iff_eq.mpr (mask_xyn o x y n)

theorem selects_x (m : Mnemonic) (o : BitVec 4) (x : Reg) (kk : Byte) :
    (OpcodeRow.mk m 0xF0FF (o ++ 0x0#4 ++ kk)).selects (o ++ x ++ kk) = true := by
  unfold OpcodeRow.selects
  exact beq_iff_eq.mpr (mask_xkk o x kk)

theorem reg_lt (x : Reg) : x.toNat < 16 := x.isLt
theorem byte_lt (b : Byte) : b.toNat < 256 := b.isLt
theorem addr_lt (a : Addr12) : a.toNat < 4096 := a.isLt

/-! ### One lemma per instruction -/

theorem cls : Statement .cls := ⟨rfl, ⟨.cls, 0xFFFF, 0x00E0⟩, by decide, rfl, by decide⟩

theorem ret : Statement .ret := ⟨rfl, ⟨.ret, 0xFFFF, 0x00EE⟩, by decide, rfl, by decide⟩

theorem jp (a : Addr12) : Statement (.jp a) :=
  ⟨by
    simp [Instr.term, Instr.fields, Instr.mnemonic, Term.instr, Term.wf, Mnemonic.format, Term.build, Term.field, addr_lt], ⟨.jp, 0xF000, 0x1000⟩, by decide, rfl, selects_nnn .jp 0x1#4 a⟩

theorem call (a : Addr12) : Statement (.call a) :=
  ⟨by
    simp [Instr.term, Instr.fields, Instr.mnemonic, Term.instr, Term.wf, Mnemonic.format, Term.build, Term.field, addr_lt], ⟨.call, 0xF000, 0x2000⟩, by decide, rfl, selects_nnn .call 0x2#4 a⟩

theorem seImm (x : Reg) (kk : Byte) : Statement (.seImm x kk) :=
  ⟨by
    simp [Instr.term, Instr.fields, Instr.mnemonic, Term.instr, Term.wf, Mnemonic.format, Term.build, Term.field, reg_lt, byte_lt], ⟨.seImm, 0xF000, 0x3000⟩, by decide, rfl, selects_xkk .seImm 0x3#4 x kk⟩

theorem sneImm (x : Reg) (kk : Byte) : Statement (.sneImm x kk) :=
  ⟨by
    simp [Instr.term, Instr.fields, Instr.mnemonic, Term.instr, Term.wf, Mnemonic.format, Term.build, Term.field, reg_lt, byte_lt], ⟨.sneImm, 0xF000, 0x4000⟩, by decide, rfl, selects_xkk .sneImm 0x4#4 x kk⟩

theorem seReg (x y : Reg) : Statement (.seReg x y) :=
  ⟨by
    simp [Instr.term, Instr.fields, Instr.mnemonic, Term.instr, Term.wf, Mnemonic.format, Term.build, Term.field, reg_lt], ⟨.seReg, 0xF00F, 0x5000⟩, by decide, rfl, selects_xy .seReg 0x5#4 x y 0x0#4⟩

theorem ldImm (x : Reg) (kk : Byte) : Statement (.ldImm x kk) :=
  ⟨by
    simp [Instr.term, Instr.fields, Instr.mnemonic, Term.instr, Term.wf, Mnemonic.format, Term.build, Term.field, reg_lt, byte_lt], ⟨.ldImm, 0xF000, 0x6000⟩, by decide, rfl, selects_xkk .ldImm 0x6#4 x kk⟩

theorem addImm (x : Reg) (kk : Byte) : Statement (.addImm x kk) :=
  ⟨by
    simp [Instr.term, Instr.fields, Instr.mnemonic, Term.instr, Term.wf, Mnemonic.format, Term.build, Term.field, reg_lt, byte_lt], ⟨.addImm, 0xF000, 0x7000⟩, by decide, rfl, selects_xkk .addImm 0x7#4 x kk⟩

theorem ldReg (x y : Reg) : Statement (.ldReg x y) :=
  ⟨by
    simp [Instr.term, Instr.fields, Instr.mnemonic, Term.instr, Term.wf, Mnemonic.format, Term.build, Term.field, reg_lt], ⟨.ldReg, 0xF00F, 0x8000⟩, by decide, rfl, selects_xy .ldReg 0x8#4 x y 0x0#4⟩

theorem or (x y : Reg) : Statement (.or x y) :=
  ⟨by
    simp [Instr.term, Instr.fields, Instr.mnemonic, Term.instr, Term.wf, Mnemonic.format, Term.build, Term.field, reg_lt], ⟨.or, 0xF00F, 0x8001⟩, by decide, rfl, selects_xy .or 0x8#4 x y 0x1#4⟩

theorem and (x y : Reg) : Statement (.and x y) :=
  ⟨by
    simp [Instr.term, Instr.fields, Instr.mnemonic, Term.instr, Term.wf, Mnemonic.format, Term.build, Term.field, reg_lt], ⟨.and, 0xF00F, 0x8002⟩, by decide, rfl, selects_xy .and 0x8#4 x y 0x2#4⟩

theorem xor (x y : Reg) : Statement (.xor x y) :=
  ⟨by
    simp [Instr.term, Instr.fields, Instr.mnemonic, Term.instr, Term.wf, Mnemonic.format, Term.build, Term.field, reg_lt], ⟨.xor, 0xF00F, 0x8003⟩, by decide, rfl, selects_xy .xor 0x8#4 x y 0x3#4⟩

theorem addReg (x y : Reg) : Statement (.addReg x y) :=
  ⟨by
    simp [Instr.term, Instr.fields, Instr.mnemonic, Term.instr, Term.wf, Mnemonic.format, Term.build, Term.field, reg_lt], ⟨.addReg, 0xF00F, 0x8004⟩, by decide, rfl, selects_xy .addReg 0x8#4 x y 0x4#4⟩

theorem subReg (x y : Reg) : Statement (.subReg x y) :=
  ⟨by
    simp [Instr.term, Instr.fields, Instr.mnemonic, Term.instr, Term.wf, Mnemonic.format, Term.build, Term.field, reg_lt], ⟨.subReg, 0xF00F, 0x8005⟩, by decide, rfl, selects_xy .subReg 0x8#4 x y 0x5#4⟩

theorem shr (x y : Reg) : Statement (.shr x y) :=
  ⟨by
    simp [Instr.term, Instr.fields, Instr.mnemonic, Term.instr, Term.wf, Mnemonic.format, Term.build, Term.field, reg_lt], ⟨.shr, 0xF00F, 0x8006⟩, by decide, rfl, selects_xy .shr 0x8#4 x y 0x6#4⟩

theorem subn (x y : Reg) : Statement (.subn x y) :=
  ⟨by
    simp [Instr.term, Instr.fields, Instr.mnemonic, Term.instr, Term.wf, Mnemonic.format, Term.build, Term.field, reg_lt], ⟨.subn, 0xF00F, 0x8007⟩, by decide, rfl, selects_xy .subn 0x8#4 x y 0x7#4⟩

theorem shl (x y : Reg) : Statement (.shl x y) :=
  ⟨by
    simp [Instr.term, Instr.fields, Instr.mnemonic, Term.instr, Term.wf, Mnemonic.format, Term.build, Term.field, reg_lt], ⟨.shl, 0xF00F, 0x800E⟩, by decide, rfl, selects_xy .shl 0x8#4 x y 0xE#4⟩

theorem sneReg (x y : Reg) : Statement (.sneReg x y) :=
  ⟨by
    simp [Instr.term, Instr.fields, Instr.mnemonic, Term.instr, Term.wf, Mnemonic.format, Term.build, Term.field, reg_lt], ⟨.sneReg, 0xF00F, 0x9000⟩, by decide, rfl, selects_xy .sneReg 0x9#4 x y 0x0#4⟩

theorem ldI (a : Addr12) : Statement (.ldI a) :=
  ⟨by
    simp [Instr.term, Instr.fields, Instr.mnemonic, Term.instr, Term.wf, Mnemonic.format, Term.build, Term.field, addr_lt], ⟨.ldI, 0xF000, 0xA000⟩, by decide, rfl, selects_nnn .ldI 0xA#4 a⟩

theorem jpV0 (a : Addr12) : Statement (.jpV0 a) :=
  ⟨by
    simp [Instr.term, Instr.fields, Instr.mnemonic, Term.instr, Term.wf, Mnemonic.format, Term.build, Term.field, addr_lt], ⟨.jpV0, 0xF000, 0xB000⟩, by decide, rfl, selects_nnn .jpV0 0xB#4 a⟩

theorem rnd (x : Reg) (kk : Byte) : Statement (.rnd x kk) :=
  ⟨by
    simp [Instr.term, Instr.fields, Instr.mnemonic, Term.instr, Term.wf, Mnemonic.format, Term.build, Term.field, reg_lt, byte_lt], ⟨.rnd, 0xF000, 0xC000⟩, by decide, rfl, selects_xkk .rnd 0xC#4 x kk⟩

theorem drw (x y : Reg) (n : Nibble) : Statement (.drw x y n) :=
  ⟨by
    simp [Instr.term, Instr.fields, Instr.mnemonic, Term.instr, Term.wf, Mnemonic.format, Term.build, Term.field, reg_lt], ⟨.drw, 0xF000, 0xD000⟩, by decide, rfl, selects_xyn .drw 0xD#4 x y n⟩

theorem skp (x : Reg) : Statement (.skp x) :=
  ⟨by
    simp [Instr.term, Instr.fields, Instr.mnemonic, Term.instr, Term.wf, Mnemonic.format, Term.build, Term.field, reg_lt], ⟨.skp, 0xF0FF, 0xE09E⟩, by decide, rfl, selects_x .skp 0xE#4 x 0x9E#8⟩

theorem sknp (x : Reg) : Statement (.sknp x) :=
  ⟨by
    simp [Instr.term, Instr.fields, Instr.mnemonic, Term.instr, Term.wf, Mnemonic.format, Term.build, Term.field, reg_lt], ⟨.sknp, 0xF0FF, 0xE0A1⟩, by decide, rfl, selects_x .sknp 0xE#4 x 0xA1#8⟩

theorem ldRegDt (x : Reg) : Statement (.ldRegDt x) :=
  ⟨by
    simp [Instr.term, Instr.fields, Instr.mnemonic, Term.instr, Term.wf, Mnemonic.format, Term.build, Term.field, reg_lt], ⟨.ldRegDt, 0xF0FF, 0xF007⟩, by decide, rfl, selects_x .ldRegDt 0xF#4 x 0x07#8⟩

theorem ldRegKey (x : Reg) : Statement (.ldRegKey x) :=
  ⟨by
    simp [Instr.term, Instr.fields, Instr.mnemonic, Term.instr, Term.wf, Mnemonic.format, Term.build, Term.field, reg_lt], ⟨.ldRegKey, 0xF0FF, 0xF00A⟩, by decide, rfl, selects_x .ldRegKey 0xF#4 x 0x0A#8⟩

theorem ldDtReg (x : Reg) : Statement (.ldDtReg x) :=
  ⟨by
    simp [Instr.term, Instr.fields, Instr.mnemonic, Term.instr, Term.wf, Mnemonic.format, Term.build, Term.field, reg_lt], ⟨.ldDtReg, 0xF0FF, 0xF015⟩, by decide, rfl, selects_x .ldDtReg 0xF#4 x 0x15#8⟩

theorem ldStReg (x : Reg) : Statement (.ldStReg x) :=
  ⟨by
    simp [Instr.term, Instr.fields, Instr.mnemonic, Term.instr, Term.wf, Mnemonic.format, Term.build, Term.field, reg_lt], ⟨.ldStReg, 0xF0FF, 0xF018⟩, by decide, rfl, selects_x .ldStReg 0xF#4 x 0x18#8⟩

theorem addI (x : Reg) : Statement (.addI x) :=
  ⟨by
    simp [Instr.term, Instr.fields, Instr.mnemonic, Term.instr, Term.wf, Mnemonic.format, Term.build, Term.field, reg_lt], ⟨.addI, 0xF0FF, 0xF01E⟩, by decide, rfl, selects_x .addI 0xF#4 x 0x1E#8⟩

theorem ldFont (x : Reg) : Statement (.ldFont x) :=
  ⟨by
    simp [Instr.term, Instr.fields, Instr.mnemonic, Term.instr, Term.wf, Mnemonic.format, Term.build, Term.field, reg_lt], ⟨.ldFont, 0xF0FF, 0xF029⟩, by decide, rfl, selects_x .ldFont 0xF#4 x 0x29#8⟩

theorem ldBcd (x : Reg) : Statement (.ldBcd x) :=
  ⟨by
    simp [Instr.term, Instr.fields, Instr.mnemonic, Term.instr, Term.wf, Mnemonic.format, Term.build, Term.field, reg_lt], ⟨.ldBcd, 0xF0FF, 0xF033⟩, by decide, rfl, selects_x .ldBcd 0xF#4 x 0x33#8⟩

theorem ldMemReg (x : Reg) : Statement (.ldMemReg x) :=
  ⟨by
    simp [Instr.term, Instr.fields, Instr.mnemonic, Term.instr, Term.wf, Mnemonic.format, Term.build, Term.field, reg_lt], ⟨.ldMemReg, 0xF0FF, 0xF055⟩, by decide, rfl, selects_x .ldMemReg 0xF#4 x 0x55#8⟩

theorem ldRegMem (x : Reg) : Statement (.ldRegMem x) :=
  ⟨by
    simp [Instr.term, Instr.fields, Instr.mnemonic, Term.instr, Term.wf, Mnemonic.format, Term.build, Term.field, reg_lt], ⟨.ldRegMem, 0xF0FF, 0xF065⟩, by decide, rfl, selects_x .ldRegMem 0xF#4 x 0x65#8⟩

/-- Every instruction is well formed: its fields have exactly the widths R72 asks for. -/
theorem wf_of_statement {i : Instr} (h : Statement i) : i.wf = true := by
  have e := h.1
  unfold Term.instr at e
  unfold Instr.wf
  by_contra hn
  rw [if_neg hn] at e
  exact absurd e (by simp)

end Sys2Proof.Laws.Encoding
end

