-- ==== Sys2Proof/Tests/Slice0.lean ====
section
/-!
SUPPORT. Tests of the model against the worked examples and vectors of 95_test_vectors.md (the identifier of each is in
its docstring), and a witness for every statement that has hypotheses. Each test is one decoding or one step.
-/

namespace Sys2Proof.Tests

open Sys2Proof Sys2Proof.Machine

/-! ## Building small states -/

/-- Parameters for the tests: the defaults of R4 with an arbitrary FONT_BASE, 0x050, so that everything evaluates. -/
def params : Params :=
  { memPolicy := .mask, stackPolicy := .wrap, addISetsVF := false, fontBase := 0x050, initMem := [] }

/-- Both alternative policies. -/
def strict : Params := { params with memPolicy := .fault, stackPolicy := .fault }

/-- Answers of an environment in which nothing happens. -/
def quiet : Env := { keyDown := 0, keyEvent := none, rand := 0, collided := false }

/-- A reset machine with the given parameters whose next event is a `Step` with the given answers. -/
def fresh (p : Params) (env : Env) : State := { State.boot p with agenda := [.step env] }

/-- The default machine with some registers preset. -/
def regs (l : List (Reg × Byte)) : State := l.foldl (fun s c => s.setV c.1 c.2) (fresh params quiet)

/-- Preset bytes of memory. -/
def bytes (l : List (Nat × Byte)) (s : State) : State := l.foldl (fun s c => s.writeByte c.1 c.2) s

/-- Load a word where the machine fetches and take one transition. -/
def run1 (w : Nat) (s : State) : Result := step (s.withFetchWord 16 w)

/-- Some fields of a next state. -/
def obs {α : Type} (r : Result) (f : State → α) : Option α :=
  match r with
  | .next t => some (f t)
  | .fault _ => none
  | .refused _ => none

/-- PC, `V1` and VF: what an arithmetic instruction of the vectors changes. -/
def v1f (t : State) : Word × Byte × Byte := (t.pc, t.getV 1, t.getV 15)

/-! ## Well-formedness of terms (R72): one ill-formed term for each check -/

theorem test_wf_accepts : Term.wf ⟨.drw, [15, 15, 15]⟩ = true ∧ Term.wf ⟨.ldImm, [10, 255]⟩ = true ∧
    Term.wf ⟨.jp, [4095]⟩ = true ∧ Term.wf ⟨.cls, []⟩ = true ∧ Term.wf ⟨.shr, [1, 2]⟩ = true := by decide

theorem test_wf_refuses_x : Term.wf ⟨.skp, [16]⟩ = false ∧ Term.wf ⟨.ldImm, [16, 0]⟩ = false ∧
    Term.wf ⟨.addReg, [16, 0]⟩ = false ∧ Term.wf ⟨.drw, [16, 0, 0]⟩ = false := by decide

theorem test_wf_refuses_y : Term.wf ⟨.addReg, [0, 16]⟩ = false ∧ Term.wf ⟨.drw, [0, 16, 0]⟩ = false := by decide

theorem test_wf_refuses_n : Term.wf ⟨.drw, [0, 0, 16]⟩ = false := by decide

theorem test_wf_refuses_kk : Term.wf ⟨.seImm, [0, 256]⟩ = false := by decide

theorem test_wf_refuses_nnn : Term.wf ⟨.ldI, [4096]⟩ = false := by decide

theorem test_wf_refuses_field_count : Term.wf ⟨.cls, [0]⟩ = false ∧ Term.wf ⟨.jp, []⟩ = false ∧
    Term.wf ⟨.rnd, [1]⟩ = false ∧ Term.wf ⟨.shl, [1]⟩ = false ∧ Term.wf ⟨.drw, [1, 2]⟩ = false ∧
    Term.wf ⟨.ldBcd, [1, 2]⟩ = false ∧ Term.instr ⟨.ldBcd, [1, 2]⟩ = none := by decide

/-! ## Decoding: every word of the table of vector S2, both ways -/

/-- A word and a term decode and encode to each other. -/
def pair (w : Word) (i : Instr) : Bool := decide (decode w = .ok i) && encode i == w

theorem test_decode_fixed_nnn : (pair 0x00E0 .cls && pair 0x00EE .ret && pair 0x1ABC (.jp 0xABC) &&
    pair 0x2ABC (.call 0xABC) && pair 0xAABC (.ldI 0xABC) && pair 0xBABC (.jpV0 0xABC)) = true := by decide

theorem test_decode_xkk : (pair 0x3A5C (.seImm 10 0x5C) && pair 0x4A5C (.sneImm 10 0x5C) &&
    pair 0x6A5C (.ldImm 10 0x5C) && pair 0x7A5C (.addImm 10 0x5C) && pair 0xCA5C (.rnd 10 0x5C)) = true := by decide

theorem test_decode_xy : (pair 0x5AB0 (.seReg 10 11) && pair 0x8AB0 (.ldReg 10 11) && pair 0x8AB1 (.or 10 11) &&
    pair 0x8AB2 (.and 10 11) && pair 0x8AB3 (.xor 10 11) && pair 0x8AB4 (.addReg 10 11)) = true := by decide

theorem test_decode_xy2 : (pair 0x8AB5 (.subReg 10 11) && pair 0x8AB6 (.shr 10 11) && pair 0x8AB7 (.subn 10 11) &&
    pair 0x8ABE (.shl 10 11) && pair 0x9AB0 (.sneReg 10 11) && pair 0xDAB7 (.drw 10 11 7)) = true := by decide

theorem test_decode_x : (pair 0xEA9E (.skp 10) && pair 0xEAA1 (.sknp 10) && pair 0xFA07 (.ldRegDt 10) &&
    pair 0xFA0A (.ldRegKey 10) && pair 0xFA15 (.ldDtReg 10) && pair 0xFA18 (.ldStReg 10)) = true := by decide

theorem test_decode_x2 : (pair 0xFA1E (.addI 10) && pair 0xFA29 (.ldFont 10) && pair 0xFA33 (.ldBcd 10) &&
    pair 0xFA55 (.ldMemReg 10) && pair 0xFA65 (.ldRegMem 10)) = true := by decide

/-- V-DEC, edges of the fields, and the field extraction on 0xD12F. -/
theorem test_decode_edges : (pair 0x1FFF (.jp 0xFFF) && pair 0x2000 (.call 0) && pair 0x4F00 (.sneImm 15 0) &&
    pair 0x8017 (.subn 0 1) && pair 0x81F6 (.shr 1 15) && pair 0x9010 (.sneReg 0 1) && pair 0xC0FF (.rnd 0 0xFF) &&
    pair 0xDFFF (.drw 15 15 15) && pair 0xEFA1 (.sknp 15) && pair 0xFF65 (.ldRegMem 15) &&
    pair 0xD12F (.drw 1 2 15)) = true := by decide

/-- A word is rejected. -/
def bad (e : InvalidWord) (w : Word) : Bool := decide (decode w = .error e)

/-- V-DEC, invalid words of families 0, 5 and 9. -/
theorem test_invalid_low : ([0x0000, 0x0001, 0x00E1, 0x00EF, 0x00FF, 0x01E0, 0x0FEE, 0x0123, 0x0FFF].all (bad .family0) &&
    [0x5001, 0x5AB1, 0x5ABF].all (bad .family5) && [0x9001, 0x9AB1, 0x9ABF].all (bad .family9)) = true := by decide

/-- V-DEC, invalid words of families 8 and E. -/
theorem test_invalid_8_E : ([0x8008, 0x8AB8, 0x8AB9, 0x8ABA, 0x8ABB, 0x8ABC, 0x8ABD, 0x8ABF].all (bad .family8) &&
    [0xE000, 0xE09D, 0xE09F, 0xE0A0, 0xE0A2, 0xE19D, 0xEFFF].all (bad .familyE)) = true := by decide

/-- V-DEC, invalid words of family F. -/
theorem test_invalid_F : ([0xF000, 0xF001, 0xF002, 0xF006, 0xF008, 0xF00B, 0xF014, 0xF016, 0xF017, 0xF019, 0xF01D, 0xF01F,
    0xF028, 0xF02A].all (bad .familyF) && [0xF030, 0xF032, 0xF034, 0xF03A, 0xF054, 0xF056, 0xF064, 0xF066, 0xF075, 0xF085,
    0xF0FF, 0xFFFF].all (bad .familyF)) = true := by decide

/-- The table words the host numbers: the first byte is the high byte. -/
theorem test_decodeTableWord : decodeTableWord 16 0x6A05 = some (.ldImm 10 0x05) ∧ decodeTableWord 16 0x8AB8 = none := by
  decide

/-- The word the host stores after reset is run by the very next step, although nothing is scripted there. -/
theorem test_withFetchWord_reset : obs (run1 0x6A05 State.reset) (fun t => (t.pc, t.getV 10)) = some (0x0202, 0x05) := by
  decide

/-! ## Control flow -/

/-- V-CF-1: the newer of two entries is popped. -/
theorem test_ret : obs (run1 0x00EE { regs [] with sp := 2, stack := ((regs []).stack.set 0 0x0456).set 1 0x0ABC })
    (fun t => (t.pc, t.sp)) = some (0x0ABC, 1) := by decide

/-- V-CF-2: on the empty stack SP wraps to 15 and no fault is raised. -/
theorem test_ret_empty : obs (run1 0x00EE (regs [])) (fun t => (t.pc, t.sp, t.fault)) = some (0, 15, none) := by decide

/-- V-CF-6: an odd target is legal. -/
theorem test_jp : obs (run1 0x1301 (regs [])) (·.pc) = some 0x0301 := by decide

/-- V-CF-7. -/
theorem test_call : obs (run1 0x2300 (regs [])) (fun t => (t.pc, t.sp, t.stack[0])) = some (0x0300, 1, 0x0202) := by
  decide

/-- V-CF-9: the advance wraps at 2^16, and the wrapped value is pushed. -/
theorem test_call_wraps : obs (run1 0x2300 { regs [] with pc := 0xFFFE }) (fun t => (t.pc, t.stack[0])) =
    some (0x0300, 0x0000) := by decide

/-- V-CF-10, V-CF-11. -/
theorem test_seImm : obs (run1 0x3A08 (regs [(10, 0x08)])) (·.pc) = some 0x0204 ∧
    obs (run1 0x3A08 (regs [(10, 0x07)])) (·.pc) = some 0x0202 := by decide

/-- V-CF-13, V-CF-14. -/
theorem test_sneImm : obs (run1 0x4A08 (regs [(10, 0x08)])) (·.pc) = some 0x0202 ∧
    obs (run1 0x4A08 (regs [(10, 0x07)])) (·.pc) = some 0x0204 := by decide

/-- V-CF-15, V-CF-16. -/
theorem test_seReg : obs (run1 0x5120 (regs [(1, 0x33), (2, 0x33)])) (·.pc) = some 0x0204 ∧
    obs (run1 0x5120 (regs [(1, 0x33), (2, 0x34)])) (·.pc) = some 0x0202 := by decide

/-- V-CF-18, V-CF-19. -/
theorem test_sneReg : obs (run1 0x9120 (regs [(1, 0x01), (2, 0x02)])) (·.pc) = some 0x0204 ∧
    obs (run1 0x9120 (regs [(1, 0x02), (2, 0x02)])) (·.pc) = some 0x0202 := by decide

/-- V-CF-22: the largest sum, not masked. -/
theorem test_jpV0 : obs (run1 0xBFFF (regs [(0, 0xFF)])) (·.pc) = some 0x10FE := by decide

/-- V-CF-25: a taken skip at the top of the 16-bit PC wraps. -/
theorem test_skip_wraps : obs (run1 0x3000 { regs [] with pc := 0xFFFC }) (·.pc) = some 0x0000 := by decide

/-- V-CF-26: a fetch across the end of memory. -/
theorem test_fetch_straddles :
    obs (step (bytes [(0xFFF, 0x12), (0x000, 0x34)] { regs [] with pc := 0x0FFF })) (·.pc) = some 0x0234 := by decide

/-! ## Arithmetic, logic, shifts -/

/-- V-ALU-2: VF takes any byte. -/
theorem test_ldImm : obs (run1 0x6F7B (regs [])) v1f = some (0x0202, 0, 0x7B) := by decide

/-- V-ALU-4: the sum wraps and VF is not written. -/
theorem test_addImm : obs (run1 0x7101 (regs [(1, 0xFF), (15, 1)])) v1f = some (0x0202, 0x00, 1) := by decide

/-- V-ALU-6. -/
theorem test_ldReg : obs (run1 0x8120 (regs [(1, 0x12), (2, 0x34)])) v1f = some (0x0202, 0x34, 0) := by decide

/-- V-ALU-7: VF stays 1. -/
theorem test_or : obs (run1 0x8121 (regs [(1, 0xF0), (2, 0x0F), (15, 1)])) v1f = some (0x0202, 0xFF, 1) := by decide

/-- V-ALU-8. -/
theorem test_and : obs (run1 0x8122 (regs [(1, 0xF0), (2, 0x3C)])) v1f = some (0x0202, 0x30, 0) := by decide

/-- V-ALU-9. -/
theorem test_xor : obs (run1 0x8123 (regs [(1, 0xF0), (2, 0x3C)])) v1f = some (0x0202, 0xCC, 0) := by decide

/-- S3-a, S3-b: 255 does not carry, 256 does. -/
theorem test_addReg : obs (run1 0x8124 (regs [(1, 0xFF), (15, 1)])) v1f = some (0x0202, 0xFF, 0) ∧
    obs (run1 0x8124 (regs [(1, 0xFF), (2, 0x01)])) v1f = some (0x0202, 0x00, 1) := by decide

/-- V-ALU-15, V-ALU-18, V-ALU-19: x = 15, and x = y = 15. -/
theorem test_addReg_vf : obs (run1 0x8F14 (regs [(1, 0x20), (15, 0xF0)])) v1f = some (0x0202, 0x20, 1) ∧
    obs (run1 0x8FF4 (regs [(15, 0x80)])) v1f = some (0x0202, 0, 1) ∧
    obs (run1 0x8FF4 (regs [(15, 0x7F)])) v1f = some (0x0202, 0, 0) := by decide

/-- S3-c, V-ALU-20: equal operands do not borrow. -/
theorem test_subReg : obs (run1 0x8125 (regs [(1, 0x07), (2, 0x07)])) v1f = some (0x0202, 0x00, 1) ∧
    obs (run1 0x8125 (regs [(1, 0x10), (2, 0x20), (15, 1)])) v1f = some (0x0202, 0xF0, 0) := by decide

/-- V-ALU-25, V-ALU-26: x = 15, and y = 15. -/
theorem test_subReg_vf : obs (run1 0x8F15 (regs [(1, 0x05), (15, 0x03)])) v1f = some (0x0202, 0x05, 0) ∧
    obs (run1 0x81F5 (regs [(1, 0x05), (15, 0x01)])) v1f = some (0x0202, 0x04, 1) := by decide

/-- V-ALU-28, V-ALU-29: y is ignored. -/
theorem test_shr : obs (run1 0x8126 (regs [(1, 0xFF), (2, 0x02)])) v1f = some (0x0202, 0x7F, 1) ∧
    obs (run1 0x81F6 (regs [(1, 0x04), (15, 0x01)])) v1f = some (0x0202, 0x02, 0) := by decide

/-- V-ALU-32: x = 15, the shifted value is overwritten. -/
theorem test_shr_vf : obs (run1 0x8F06 (regs [(15, 0x02)])) v1f = some (0x0202, 0, 0) := by decide

/-- V-ALU-33, V-ALU-34. -/
theorem test_subn : obs (run1 0x8127 (regs [(1, 0x10), (2, 0x20)])) v1f = some (0x0202, 0x10, 1) ∧
    obs (run1 0x8127 (regs [(1, 0x20), (2, 0x10), (15, 1)])) v1f = some (0x0202, 0xF0, 0) := by decide

/-- V-ALU-36: x = 15. -/
theorem test_subn_vf : obs (run1 0x8F17 (regs [(1, 0x09), (15, 0x05)])) v1f = some (0x0202, 0x09, 1) := by decide

/-- V-ALU-37, V-ALU-38. -/
theorem test_shl : obs (run1 0x812E (regs [(1, 0x81)])) v1f = some (0x0202, 0x02, 1) ∧
    obs (run1 0x812E (regs [(1, 0x7F), (15, 1)])) v1f = some (0x0202, 0xFE, 0) := by decide

/-- V-ALU-41: x = 15. -/
theorem test_shl_vf : obs (run1 0x8F0E (regs [(15, 0x41)])) v1f = some (0x0202, 0, 0) := by decide

/-! ## Index register and memory -/

/-- V-IDX-2: the upper four bits of I become 0. -/
theorem test_ldI : obs (run1 0xAFFF { regs [] with idx := 0x1234 }) (fun t => (t.pc, t.idx)) = some (0x0202, 0x0FFF) := by
  decide

/-- V-IDX-4: I is not masked, VF is untouched by default. -/
theorem test_addI : obs (run1 0xF21E { regs [(2, 1), (15, 0)] with idx := 0x0FFF }) (fun t => (t.pc, t.idx, t.getV 15)) =
    some (0x0202, 0x1000, 0) := by decide

/-- V-IDX-5, V-IDX-6: ADDI_SETS_VF = true. -/
theorem test_addI_flag :
    obs (run1 0xF21E { regs [(2, 1)] with idx := 0x0FFF, params := { params with addISetsVF := true } })
      (fun t => (t.idx, t.getV 15)) = some (0x1000, 1) ∧
    obs (run1 0xF21E { regs [(2, 1), (15, 1)] with idx := 0x0300, params := { params with addISetsVF := true } })
      (fun t => (t.idx, t.getV 15)) = some (0x0301, 0) := by decide

/-- V-IDX-9 and V-IDX-12, FONT_BASE = 0x050: the whole 8-bit value counts. -/
theorem test_ldFont : obs (run1 0xFA29 (regs [(10, 0x08)])) (fun t => (t.pc, t.idx)) = some (0x0202, 0x050 + 40) ∧
    obs (run1 0xF129 (regs [(1, 0xFF)])) (·.idx) = some (0x050 + 1275) := by decide

/-- Four bytes of memory. -/
def quad (a : Nat) (t : State) : List Byte := (List.range 4).map fun k => t.readByte (a + k)

/-- V-IDX-14: 255, and the fourth byte untouched. -/
theorem test_ldBcd : obs (run1 0xF333 (bytes [(0x300, 0xEE), (0x301, 0xEE), (0x302, 0xEE), (0x303, 0xEE)]
    { regs [(3, 0xFF)] with idx := 0x300 })) (fun t => (t.pc, t.idx, quad 0x300 t)) =
    some (0x0202, 0x300, [2, 5, 5, 0xEE]) := by decide

/-- V-IDX-18: 123 at 0x0FFF wraps to 0x000. -/
theorem test_ldBcd_wraps : obs (run1 0xF333 { regs [(3, 0x7B)] with idx := 0xFFF })
    (fun t => (t.readByte 0xFFF, t.readByte 0, t.readByte 1)) = some (1, 2, 3) := by decide

/-- S8: exactly four bytes, V4 not stored, I unchanged. -/
theorem test_ldMemReg : obs (run1 0xF355 (bytes [(0x304, 0xEE)]
    { regs [(0, 1), (1, 2), (2, 3), (3, 4), (4, 0x99)] with idx := 0x300 }))
    (fun t => (t.pc, t.idx, quad 0x300 t, t.readByte 0x304)) = some (0x0202, 0x300, [1, 2, 3, 4], 0xEE) := by decide

/-- V-IDX-22: an I above 0x0FFF names the byte at I mod 4096. -/
theorem test_ldMemReg_high : obs (run1 0xF355 { regs [(0, 1), (1, 2), (2, 3), (3, 4)] with idx := 0x1300 })
    (quad 0x300) = some [1, 2, 3, 4] := by decide

/-- V-IDX-23: V3 keeps its value. -/
theorem test_ldRegMem : obs (run1 0xF265 (bytes [(0x300, 0xAA), (0x301, 0xBB), (0x302, 0xCC), (0x303, 0xDD)]
    { regs [(3, 0x77)] with idx := 0x300 })) (fun t => (t.pc, t.idx, [t.getV 0, t.getV 1, t.getV 2, t.getV 3])) =
    some (0x0202, 0x300, [0xAA, 0xBB, 0xCC, 0x77]) := by decide

/-- V-IDX-26: the bytes of the instruction itself. -/
theorem test_ldRegMem_self : obs (run1 0xF165 { regs [] with idx := 0x200 }) (fun t => (t.getV 0, t.getV 1)) =
    some (0xF1, 0x65) := by decide

/-! ## Timers -/

/-- V-TMR-1. -/
theorem test_ldRegDt : obs (run1 0xF507 { regs [] with dt := 0x3C }) (fun t => (t.pc, t.getV 5)) = some (0x0202, 0x3C) := by
  decide

/-- V-TMR-2. -/
theorem test_ldDtReg : obs (run1 0xF515 (regs [(5, 0x3C)])) (fun t => (t.pc, t.dt, t.st)) = some (0x0202, 0x3C, 0) := by
  decide

/-- V-TMR-3. -/
theorem test_ldStReg : obs (run1 0xF518 (regs [(5, 0x02)])) (fun t => (t.pc, t.dt, t.st)) = some (0x0202, 0, 2) := by
  decide

/-- V-TMR-4, V-TMR-5: a `Tick` and its floor. -/
theorem test_tick : obs (step { regs [] with agenda := [.tick], dt := 2, st := 1 }) (fun t => (t.pc, t.dt, t.st)) =
      some (0x0200, 1, 0) ∧
    obs (step { regs [] with agenda := [.tick] }) (fun t => (t.dt, t.st)) = some (0, 0) := by decide

/-! ## Display, random, keys -/

/-- V-IO-1. -/
theorem test_cls : obs (run1 0x00E0 (regs [(15, 1)])) (fun t => (t.pc, t.getV 15, t.out)) =
    some (0x0202, 1, [.displayClear]) := by decide

/-- V-IO-2, V-IO-4. -/
theorem test_rnd : obs (run1 0xC30F (fresh params { quiet with rand := 0xA7 })) (fun t => (t.pc, t.getV 3)) =
      some (0x0202, 0x07) ∧
    obs (run1 0xC3FF (fresh params { quiet with rand := 0xA7 })) (fun t => t.getV 3) = some 0xA7 := by decide

/-- V-IO-8: x = 15, the old VF is the coordinate, then VF is the answer. -/
theorem test_drw : obs (run1 0xDF11 (bytes [(0x300, 0x80)] { regs [(1, 0xC8), (15, 7)] with
      idx := 0x300, agenda := [.step { quiet with collided := true }] })) (fun t => (t.pc, t.getV 15, t.out)) =
    some (0x0202, 1, [.displayDraw 7 200 [0x80]]) := by decide

/-- V-IO-9 and V-FLT-12: sprite bytes wrap, and a draw of no bytes reads nothing. -/
theorem test_drw_wraps : obs (run1 0xD124 (bytes [(0, 0x33), (1, 0x44), (0xFFE, 0x11), (0xFFF, 0x22)]
      { regs [] with idx := 0xFFE })) (·.out) = some [.displayDraw 0 0 [0x11, 0x22, 0x33, 0x44]] ∧
    obs (run1 0xD120 { regs [(15, 1)] with idx := 0x2000, params := strict }) (fun t => (t.pc, t.getV 15, t.out, t.fault)) =
      some (0x0202, 0, [.displayDraw 0 0 []], none) := by decide

/-- V-IO-10, V-IO-12: the key is the one the VALUE of V4 names. -/
theorem test_skp :
    obs (run1 0xE49E { regs [(4, 0x0A)] with agenda := [.step { quiet with keyDown := 0x0400 }] }) (·.pc) = some 0x0204 ∧
    obs (run1 0xE49E { regs [(4, 0x0A)] with agenda := [.step { quiet with keyDown := 0x0010 }] }) (·.pc) =
      some 0x0202 := by decide

/-- R124, on the answers of V-IO-10 and V-IO-11. -/
theorem test_sknp :
    obs (run1 0xE4A1 { regs [(4, 0x0A)] with agenda := [.step { quiet with keyDown := 0x0400 }] }) (·.pc) = some 0x0202 ∧
    obs (run1 0xE4A1 (regs [(4, 0x0A)])) (·.pc) = some 0x0204 := by decide

/-- P3, event 3: the wait is armed, nothing is delivered. -/
theorem test_ldRegKey : obs (run1 0xF10A { regs [] with agenda := [.step { quiet with keyEvent := some 7 }] })
    (fun t => (t.pc, t.wait, t.waitReg, t.getV 1)) = some (0x0202, true, 1, 0) := by decide

/-- P3, events 5 and 7: no key, then key 7. -/
theorem test_keyWait : obs (step { regs [] with wait := true, waitReg := 1 }) (fun t => (t.pc, t.wait)) =
      some (0x0200, true) ∧
    obs (step { regs [] with wait := true, waitReg := 1, agenda := [.step { quiet with keyEvent := some 7 }] })
      (fun t => (t.pc, t.wait, t.getV 1)) = some (0x0200, false, 7) := by decide

/-! ## Faults and reset -/

/-- P4a, event 5: the invalid word 0xFFFF. -/
theorem test_decodeFault : obs (run1 0xFFFF (regs [])) (fun t => (t.pc, t.fault)) =
    some (0x0200, some ⟨.decode, 0x0200, some 0xFFFF⟩) := by decide

/-- V-FLT-8, V-FLT-9: the lowest faulting address, nothing written. -/
theorem test_memoryFault : obs (run1 0xF355 { regs [(0, 1)] with idx := 0x0FFE, params := strict })
      (fun t => (t.pc, t.fault, t.readByte 0xFFE)) = some (0x0200, some ⟨.memory 0x1000, 0x0200, some 0xF355⟩, 0) ∧
    obs (run1 0xF333 { regs [(3, 0x7B)] with idx := 0x0FFE, params := strict }) (·.fault) =
      some (some ⟨.memory 0x1000, 0x0200, some 0xF333⟩) := by decide

/-- V-FLT-7: PC = 0x1000 under the policy `fault`. The fetch faults and no word is recorded. -/
theorem test_fetchFault : obs (step { regs [] with pc := 0x1000, params := strict }) (fun t => (t.pc, t.fault)) =
    some (0x1000, some ⟨.memory 0x1000, 0x1000, none⟩) := by decide

/-- V-FLT-14, V-FLT-15. -/
theorem test_stackFault : obs (run1 0x00EE { regs [] with params := strict }) (fun t => (t.pc, t.fault)) =
      some (0x0200, some ⟨.stackUnderflow, 0x0200, some 0x00EE⟩) ∧
    obs (run1 0x2300 { regs [] with params := strict, depth := 16 }) (fun t => (t.pc, t.sp, t.fault)) =
      some (0x0200, 0, some ⟨.stackOverflow, 0x0200, some 0x2300⟩) := by decide

/-- R134: the value 16 names no key. -/
theorem test_keyRangeFault : obs (run1 0xE49E (regs [(4, 16)])) (fun t => (t.pc, t.fault)) =
      some (0x0200, some ⟨.keyRange 16, 0x0200, some 0xE49E⟩) ∧
    obs (run1 0xE4A1 (regs [(4, 16)])) (·.fault) = some (some ⟨.keyRange 16, 0x0200, some 0xE4A1⟩) := by decide

/-- A machine with everything V-RST-1 names out of its reset value. -/
def worn : State :=
  { regs [(3, 0x55)] with
    agenda := [.reset]
    pc := 0x0ABC
    idx := 0x0123
    sp := 5
    dt := 9
    st := 9
    wait := true
    waitReg := 3
    fault := some ⟨.decode, 0x0ABC, some 0⟩ }

/-- V-RST-1. -/
theorem test_reset_event : obs (step worn) (fun t => (t.pc, t.getV 3, t.idx, t.sp)) = some (0x0200, 0, 0, 0) ∧
    obs (step worn) (fun t => (t.dt, t.st, t.wait, t.waitReg, t.fault)) = some (0, 0, false, 0, none) := by decide

/-- The canonical form: writing the value an unlisted address reads as removes the entry. -/
theorem test_memory_canonical : Memory.write (Memory.write [] 5 7) 5 0 = [] ∧
    Memory.write (Memory.write [] 5 7) 3 1 = [(3, 1), (5, 7)] := by decide

/-! ## Witnesses: for every statement with hypotheses, states and operands that meet them -/

/-- The default machine, nothing preset. -/
def s0 : State := regs []

/-- Both alternative policies, with a given PC, I and DEPTH (SP its low bits). -/
def sAt (pc idx : Word) (depth : Nat) : State :=
  { fresh strict quiet with pc := pc, idx := idx, depth := depth, sp := BitVec.ofNat 4 depth }

/-- A machine halted by a `DecodeFault` on the word 0. -/
def halted : State := { s0 with fault := some ⟨.decode, 0x0200, some 0⟩ }

/-- A machine waiting for a key into V3. -/
def waiting : State := { s0 with wait := true, waitReg := 3 }

theorem wit_BootMeetsTheInvariant : Params.ok params ∧ Params.ok strict ∧ Params.ok { params with fontBase := 4016 } :=
  ⟨⟨by decide, by decide⟩, ⟨by decide, by decide⟩, ⟨by decide, by decide⟩⟩

/-- A running machine under both policies, and a halted one: each meets the invariant and takes a step. -/
theorem wit_EveryStepKeepsTheInvariant : (∃ t, s0.Inv ∧ step s0 = .next t) ∧
    (∃ t, (sAt 0x200 0 16).Inv ∧ step (sAt 0x200 0 16) = .next t) ∧ ∃ t, halted.Inv ∧ step halted = .next t := by
  refine ⟨⟨_, ⟨by decide, ⟨by decide, by decide⟩, rfl, by simp [State.faultOk, s0, regs, fresh, State.boot]⟩, rfl⟩,
    ⟨_, ⟨by decide, ⟨by decide, by decide⟩, (by decide : 16 ≤ 16 ∧ (0 : BitVec 4).toNat = 16 % 16),
      by simp [State.faultOk, sAt, fresh, State.boot]⟩, rfl⟩,
    ⟨_, ⟨by decide, ⟨by decide, by decide⟩, rfl, ?_⟩, rfl⟩⟩
  intro r hr
  simp only [halted, Option.some.injEq] at hr
  subst hr
  exact ⟨rfl, rfl, 0, .family0, rfl, by decide⟩

/-- One state for each clause: halted, waiting, a valid word, an invalid word, a faulting fetch, a `Step` next. -/
theorem wit_StepRunsTheDecodedInstruction : halted.fault.isSome = true ∧ (waiting.fault = none ∧ waiting.wait = true) ∧
    (s0.withFetchWord 16 0x6A05).fetchWord = .ok 0x6A05 ∧ decode 0x6A05 = .ok (.ldImm 10 5) ∧
    s0.fetchWord = .ok 0 ∧ decode 0 = .error .family0 ∧ s0.fault = none ∧ s0.wait = false ∧
    (sAt 0x0FFF 0 0).fetchWord = .error 0x1000 ∧ s0.nextEvent = .step quiet := by decide

/-- The mask policy at the last PC; the fault policy at the last PC that can be fetched from. -/
theorem wit_FetchIsBigEndianThroughTheMask : ({ s0 with pc := 0xFFFF } : State).params.memPolicy = .mask ∧
    (sAt 0x0FFE 0 0).params.memPolicy = .fault ∧ (sAt 0x0FFE 0 0).pc.toNat + 1 ≤ 4095 := by decide

theorem wit_WithFetchWordRunsThatWord : 0xFF65 < 65536 ∧ decodeTableWord 16 0xFF65 = some (.ldRegMem 15) := by decide

theorem wit_DecodeAndEncodeAreInverse : decode 0xFF65 = .ok (.ldRegMem 15) := by decide

theorem wit_DecodeAgreesWithTheOpcodeMap : decode 0x8ABE = .ok (.shl 10 11) ∧ decode 0x8ABF = .error .family8 := by decide

/-- The boundary of the stack: 15 entries do not overflow, 16 do; under `wrap` nothing does. -/
theorem wit_CallPushesTheAdvancedPcAndJumps :
    ¬((sAt 0x200 0 15).params.stackPolicy = .fault ∧ (sAt 0x200 0 15).depth = 16) ∧
    ((sAt 0x200 0 16).params.stackPolicy = .fault ∧ (sAt 0x200 0 16).depth = 16) ∧
    ¬(s0.params.stackPolicy = .fault ∧ s0.depth = 16) := by decide

/-- The boundary of the stack: one entry can be popped, none cannot. -/
theorem wit_RetPopsPc : ¬((sAt 0x200 0 1).params.stackPolicy = .fault ∧ (sAt 0x200 0 1).depth = 0) ∧
    ((sAt 0x200 0 0).params.stackPolicy = .fault ∧ (sAt 0x200 0 0).depth = 0) ∧
    ¬(s0.params.stackPolicy = .fault ∧ s0.depth = 0) := by decide

theorem wit_CallThenRetResumesAfterTheCall :
    ¬((sAt 0x200 0 15).params.stackPolicy = .fault ∧ (sAt 0x200 0 15).depth = 16) := by decide

/-- Sixteen values fit under both policies, from DEPTH = 0 under `fault`; the seventeenth is clause two or three. -/
theorem wit_PushesAndPopsAreLifo : (List.replicate 16 (7 : Word)).length = 16 ∧ s0.params.stackPolicy = .wrap ∧
    s0.sp = 0 ∧ (sAt 0x200 0 0).params.stackPolicy = .fault ∧ (sAt 0x200 0 0).depth = 0 ∧
    (sAt 0x200 0 0).depth + (List.replicate 16 (7 : Word)).length ≤ 16 := by decide

/-- A destination that is not VF, for the five flag-writing instructions of 41_alu.md. -/
theorem wit_flag_destination : (14 : Reg) ≠ VF ∧ (0 : Reg) ≠ VF := by decide

theorem wit_AddIAddsToTheIndexRegister : s0.params.addISetsVF = false ∧
    ({ s0 with params := { params with addISetsVF := true } } : State).params.addISetsVF = true := by decide

theorem wit_LdFontPointsAtAGlyph : ({ params with fontBase := 4016 } : Params).fontBase.toNat + 80 ≤ 4096 := by decide

/-- The last address each access is allowed at, and the mask policy. -/
theorem wit_data_accesses_allowed : (sAt 0x200 0x0FFD 0).base + 2 ≤ 4095 ∧
    (sAt 0x200 0x0FFF 0).base + (0 : Reg).toNat ≤ 4095 ∧ (sAt 0x200 0x0FF0 0).base + (15 : Reg).toNat ≤ 4095 ∧
    (sAt 0x200 0x0FF1 0).base + (15 : Nibble).toNat - 1 ≤ 4095 ∧ s0.params.memPolicy = .mask := by decide

/-- The first address each access faults at. -/
theorem wit_DataAccessesBeyondMemoryFault : (sAt 0x200 0x0FFE 0).params.memPolicy = .fault ∧
    4095 < (sAt 0x200 0x0FFE 0).base + 2 ∧ 4095 < (sAt 0x200 0x0FF1 0).base + (15 : Reg).toNat ∧
    1 ≤ (15 : Nibble).toNat ∧ 4095 < (sAt 0x200 0x0FF2 0).base + (15 : Nibble).toNat - 1 := by decide

theorem wit_TickCountsBothTimersDownToZero : ({ s0 with agenda := [.tick] } : State).nextEvent = .tick := by decide

/-- The last key and the first value that is no key. -/
theorem wit_KeySkipsAskForTheKeyTheValueNames : ((regs [(4, 15)]).getV 4).toNat ≤ 15 ∧
    15 < ((regs [(4, 16)]).getV 4).toNat := by decide

theorem wit_KeyWaitEndsOnlyWithAKey : waiting.fault = none ∧ waiting.wait = true ∧ quiet.keyEvent = none ∧
    ({ quiet with keyEvent := some 15 } : Env).keyEvent = some 15 := by decide

/-- An invalid word at PC; and a valid one whose step latches a fault of another kind. -/
theorem wit_InvalidWordsRaiseDecodeFault :
    (s0.fault = none ∧ s0.wait = false ∧ s0.fetchWord = .ok 0 ∧ ∃ e, decode 0 = .error e) ∧
    decode 0x00EE = .ok .ret ∧
    ∃ t r, stepEvent quiet ((sAt 0x200 0 0).withFetchWord 16 0x00EE) = .next t ∧ t.fault = some r :=
  ⟨⟨rfl, rfl, by decide, .family0, by decide⟩, by decide, _, _, rfl, rfl⟩

/-- The first PC whose fetch faults, and one above memory. -/
theorem wit_FetchBeyondMemoryFaultsFirst : (sAt 0x0FFF 0 0).fault = none ∧ (sAt 0x0FFF 0 0).wait = false ∧
    (sAt 0x0FFF 0 0).params.memPolicy = .fault ∧ 4095 < (sAt 0x0FFF 0 0).pc.toNat + 1 ∧
    4095 < (sAt 0x1000 0 0).pc.toNat + 1 := by decide

theorem wit_HaltIsStickyUntilReset : halted.fault = some ⟨.decode, 0x0200, some 0⟩ ∧ Event.tick ≠ .reset ∧
    (∃ t, applyEvent .tick halted = .next t) ∧ ∃ t, applyEvent (.step quiet) halted = .next t :=
  ⟨rfl, by decide, ⟨_, rfl⟩, ⟨_, rfl⟩⟩

/-- A step that latches a fault after its fetch, and one whose fetch faults. -/
theorem wit_FaultsArePrecise : (∃ t r, s0.fault = none ∧ stepEvent quiet s0 = .next t ∧ t.fault = some r ∧
      s0.fetchWord = .ok 0) ∧
    ∃ t r, (sAt 0x1000 0 0).fault = none ∧ stepEvent quiet (sAt 0x1000 0 0) = .next t ∧ t.fault = some r ∧
      (sAt 0x1000 0 0).fetchWord = .error 0x1000 :=
  ⟨⟨_, _, rfl, rfl, rfl, by decide⟩, ⟨_, _, rfl, rfl, rfl, by decide⟩⟩

theorem wit_DefaultParametersRaiseTwoFaultsOnly : Params.isDefault s0.params ∧
    (∃ t r, s0.fault = none ∧ stepEvent quiet s0 = .next t ∧ t.fault = some r) ∧
    ∃ t r, stepEvent quiet ((regs [(4, 16)]).withFetchWord 16 0xE49E) = .next t ∧ t.fault = some r :=
  ⟨⟨rfl, rfl, rfl⟩, ⟨_, _, rfl, rfl, rfl⟩, ⟨_, _, rfl, rfl⟩⟩

/-- A store, for the statement about memory. -/
theorem wit_OnlyTheStoringInstructionsWriteMemory : ∃ t, exec (.ldMemReg 3) s0 = .next t := ⟨_, rfl⟩

theorem wit_OnlyCallAndRetTouchTheStack :
    (Instr.mnemonic (.jp 0x300) ≠ .call ∧ Instr.mnemonic (.jp 0x300) ≠ .ret ∧ ∃ t, exec (.jp 0x300) s0 = .next t) ∧
    (∃ t, applyEvent .tick s0 = .next t) ∧ waiting.wait = true ∧ ∃ t, stepEvent quiet waiting = .next t :=
  ⟨⟨by decide, by decide, _, rfl⟩, ⟨_, rfl⟩, rfl, ⟨_, rfl⟩⟩

/-- An instruction; a `Step` that changes DT, and one that changes ST. -/
theorem wit_OnlyTheTimerInstructionsWriteTimers :
    (∃ t, exec (.ldDtReg 5) s0 = .next t ∧ Instr.mnemonic (.ldDtReg 5) ≠ .ldStReg) ∧
    (∃ t, stepEvent quiet ((regs [(5, 0x3C)]).withFetchWord 16 0xF515) = .next t ∧ t.dt ≠ (regs [(5, 0x3C)]).dt) ∧
    ∃ t, stepEvent quiet ((regs [(5, 0x02)]).withFetchWord 16 0xF518) = .next t ∧ t.st ≠ (regs [(5, 0x02)]).st :=
  ⟨⟨_, rfl, by decide⟩, ⟨_, rfl, by decide⟩, ⟨_, rfl, by decide⟩⟩

theorem wit_TheSoundTimerIsNeverRead : (∃ t, exec (.ldRegDt 5) s0 = .next t) ∧ (∃ t, exec (.ldStReg 5) s0 = .next t) ∧
    Instr.mnemonic (.ldRegDt 5) ≠ .ldStReg ∧ Instr.mnemonic (.ldStReg 5) = .ldStReg :=
  ⟨⟨_, rfl⟩, ⟨_, rfl⟩, by decide, by decide⟩

/-- `AddI` takes I from 0x0FFF to 0x1000, as an instruction and as a `Step`; `Jp` leaves it. -/
theorem wit_OnlyThreeInstructionsWriteTheIndexRegister :
    (∃ t, exec (.addI 2) { regs [(2, 1)] with idx := 0x0FFF } = .next t ∧ 0x0FFF < t.idx.toNat) ∧
    ((∃ t, exec (.jp 0) s0 = .next t) ∧ Instr.mnemonic (.jp 0) ≠ .ldI ∧ Instr.mnemonic (.jp 0) ≠ .addI ∧
      Instr.mnemonic (.jp 0) ≠ .ldFont) ∧
    ∃ t, stepEvent quiet (({ regs [(2, 1)] with idx := 0x0FFF } : State).withFetchWord 16 0xF21E) = .next t ∧
      0x0FFF < t.idx.toNat :=
  ⟨⟨_, rfl, by decide⟩, ⟨⟨_, rfl⟩, by decide, by decide, by decide⟩, ⟨_, rfl, by decide⟩⟩

theorem wit_VfIsWrittenAsAFlagBySixInstructionsOnly : Params.isDefault s0.params ∧ s0.fault = none ∧
    (∃ t, exec (.drw 1 2 3) s0 = .next t ∧ t.fault = none ∧ writesFlag (.drw 1 2 3) = true) ∧
    ∃ t, exec (.or 1 2) s0 = .next t ∧ t.fault = none ∧ writesFlag (.or 1 2) = false ∧ VF ∉ destRegs (.or 1 2) :=
  ⟨⟨rfl, rfl, rfl⟩, rfl, ⟨_, rfl, rfl, by decide⟩, ⟨_, rfl, rfl, by decide, by decide⟩⟩

/-- V4 is no destination of `LdRegMem(3)`; VF is none of `LdRegMem(14)`. -/
theorem wit_InstructionsWriteOnlyTheirDestinationRegisters :
    (∃ t, exec (.ldRegMem 3) s0 = .next t) ∧ (4 : Reg) ∉ destRegs (.ldRegMem 3) ∧
    (VF : Reg) ∉ destRegs (.ldRegMem 14) ∧ writesFlag (.ldRegMem 14) = false ∧
    (∃ t, exec (.addReg 3 4) s0 = .next t) ∧ (5 : Reg) ∉ destRegs (.addReg 3 4) ∧ (5 : Reg) ≠ VF :=
  ⟨⟨_, rfl⟩, by decide, by decide, by decide, ⟨_, rfl⟩, by decide, by decide⟩

/-- An advance, a skip, and an instruction that latches a fault. -/
theorem wit_PcMovesAsEachKindOfInstructionSays : s0.fault = none ∧
    (∃ t, exec (.ldI 3) s0 = .next t ∧ t.fault = none ∧ isJump (.ldI 3) = false ∧ isSkip (.ldI 3) = false) ∧
    (∃ t, exec (.skp 1) s0 = .next t ∧ t.fault = none ∧ isSkip (.skp 1) = true) ∧
    ∃ t, exec .ret (sAt 0x200 0 0) = .next t ∧ t.fault ≠ none :=
  ⟨rfl, ⟨_, rfl, rfl, by decide, by decide⟩, ⟨_, rfl, rfl, by decide⟩, ⟨_, rfl, by decide⟩⟩

theorem wit_OnlyFourInstructionsAskTheEnvironment : asksEnv .cls = false ∧ ∃ t, exec .cls s0 = .next t :=
  ⟨by decide, _, rfl⟩

/-- A step that hands out a command, and one that latches a fault. -/
theorem wit_AStepHandsOutAtMostOneCommand : s0.fault = none ∧
    (∃ t, stepEvent quiet (s0.withFetchWord 16 0x00E0) = .next t ∧ t.out = .displayClear :: s0.out) ∧
    ∃ t, stepEvent quiet s0 = .next t ∧ t.fault ≠ none :=
  ⟨rfl, ⟨_, rfl, rfl⟩, ⟨_, rfl, by decide⟩⟩

theorem wit_NoEventChangesTheParameters : ∃ t, step s0 = .next t := ⟨_, rfl⟩

theorem wit_KeyEventsOutsideAWaitAreIgnored : s0.wait = false ∧ ∃ t, stepEvent quiet s0 = .next t := ⟨rfl, _, rfl⟩

theorem wit_AStoreIsSeenByTheNextFetch : s0.params.memPolicy = .mask ∧
    ({ s0 with idx := 0x0202 } : State).idx = s0.pc + 2 ∧ 1 ≤ (1 : Reg).toNat := by decide

end Sys2Proof.Tests
end

section
/-!
PROOFS. 40_control_flow.md: the jump (R81).
-/

namespace Sys2Proof

/-- Family 1 has no selector: the family nibble alone picks `Jp` (R64). -/
theorem decode_of_op1 {w : Word} (h : opOf w = 0x1#4) : decode w = .ok (.jp (nnnOf w)) := by unfold decode; rw [h]; rfl

theorem decode_jp (nnn : Addr12) : decode (0x1#4 ++ nnn) = .ok (.jp nnn) := by
  rw [decode_of_op1 (opOf_nnn 0x1#4 nnn), nnnOf_nnn]

namespace Machine

/-- A jump forgets the advance made before it: both write PC only, and the jump comes last (R76). -/
@[simp] theorem State.jump_advance (s : State) (target : Word) : s.advance.jump target = s.jump target := rfl

theorem exec_jp (nnn : Addr12) (s : State) : exec (.jp nnn) s = .next (s.advance.jump (addrOperand nnn)) := rfl

/-- Settles O13: the address field is read back whole, so any target is legal, and the jump overwrites the advanced PC. -/
theorem jpSetsPcToItsAddress : Obligations.JpSetsPcToItsAddress := by
  intro nnn s
  have hexec : exec (.jp nnn) s = .next (s.jump (addrOperand nnn)) := by
    rw [exec_jp, State.jump_advance]
  exact ⟨decode_jp nnn, hexec⟩

end Machine
end Sys2Proof
end

section
/-!
PROOFS. 41_alu.md: the immediates (R90, R91).
-/

namespace Sys2Proof

/-- Families 6 and 7 have no selector: the family nibble alone picks `LdImm` and `AddImm` (R64). -/
theorem decode_of_op6 {w : Word} (h : opOf w = 0x6#4) : decode w = .ok (.ldImm (xOf w) (kkOf w)) := by
  unfold decode; rw [h]; rfl

theorem decode_of_op7 {w : Word} (h : opOf w = 0x7#4) : decode w = .ok (.addImm (xOf w) (kkOf w)) := by
  unfold decode; rw [h]; rfl

theorem decode_ldImm (x : Reg) (kk : Byte) : decode (0x6#4 ++ x ++ kk) = .ok (.ldImm x kk) := by
  rw [decode_of_op6 (opOf_xkk 0x6#4 x kk), xOf_xkk, kkOf_xkk]

theorem decode_addImm (x : Reg) (kk : Byte) : decode (0x7#4 ++ x ++ kk) = .ok (.addImm x kk) := by
  rw [decode_of_op7 (opOf_xkk 0x7#4 x kk), xOf_xkk, kkOf_xkk]

namespace Machine

theorem exec_ldImm (x : Reg) (kk : Byte) (s : State) : exec (.ldImm x kk) s = .next (s.advance.setV x kk) := rfl

theorem exec_addImm (x : Reg) (kk : Byte) (s : State) :
    exec (.addImm x kk) s = .next (s.advance.setV x (s.getV x + kk)) := rfl

theorem State.getV_setV_self (s : State) (x : Reg) (b : Byte) : (s.setV x b).getV x = b := by
  rw [State.getV_setV, if_pos rfl]

/-- The frame of an instruction that writes one register: after the advance and the write, the other registers and all
state outside the register file and PC are as before (R24, R78). -/
theorem State.advance_setV_frame (s : State) (x : Reg) (b : Byte) :
    keepsRegs [x] s (s.advance.setV x b) ∧ (s.advance.setV x b).pc = s.pc + 2 ∧
      sameButRegs s (s.advance.setV x b) := by
  have hregs : keepsRegs [x] s (s.advance.setV x b) := by
    intro r hr
    rw [State.getV_setV, if_neg (List.mem_singleton.not.mp hr), State.advance_getV]
  exact ⟨hregs, rfl, rfl⟩

/-- Settles O20: both forms advance and write `V[x]` once, so they share one frame; the sum of bytes is the sum of the
numbers modulo 256. -/
theorem immediatesLoadAndAdd : Obligations.ImmediatesLoadAndAdd := by
  intro x kk s
  have hsum : ((s.advance.setV x (s.getV x + kk)).getV x).toNat = ((s.getV x).toNat + kk.toNat) % 256 := by
    rw [State.getV_setV_self, BitVec.toNat_add]
  exact ⟨decode_ldImm x kk, decode_addImm x kk,
    ⟨_, exec_ldImm x kk s, State.getV_setV_self _ x kk, State.advance_setV_frame s x kk⟩,
    ⟨_, exec_addImm x kk s, hsum, State.advance_setV_frame s x (s.getV x + kk)⟩⟩

end Machine
end Sys2Proof
end

section
/-!
PROOFS. 44_io.md: clearing the display (R120).
-/

namespace Sys2Proof

/-- In family 0 the low 12 bits 0x0E0 pick `Cls` (R64, R66). -/
theorem decodeFamily0_of_nnn0E0 {w : Word} (h : nnnOf w = 0x0E0#12) : decodeFamily0 w = .ok .cls := by
  unfold decodeFamily0; rw [h]; rfl

theorem decode_cls : decode 0x00E0 = .ok .cls := by
  have hop : opOf 0x00E0 = 0x0#4 := by decide
  have hnnn : nnnOf 0x00E0 = 0x0E0#12 := by decide
  rw [decode_of_op0 hop, decodeFamily0_of_nnn0E0 hnnn]

namespace Machine

theorem exec_cls (s : State) : exec .cls s = .next (s.advance.emit .displayClear) := rfl

/-- The advance writes PC only and a handed-out command `out` only, so together they change these two fields (R24,
R35). -/
theorem State.advance_emit (s : State) (c : Command) :
    s.advance.emit c = { s with pc := s.pc + 2, out := c :: s.out } := rfl

/-- Settles O36: the whole word selects `Cls`, whose only effect after the advance is the one command handed out. -/
theorem clsOnlyEmitsAClear : Obligations.ClsOnlyEmitsAClear := by
  intro s
  have hexec : exec .cls s = .next { s with pc := s.pc + 2, out := .displayClear :: s.out } := by
    rw [exec_cls, State.advance_emit]
  exact ⟨decode_cls, hexec⟩

end Machine
end Sys2Proof
end

section
/-!
PROOFS. 30_encoding.md: the decoder read backwards (R64, R70) and the round trip with the encoder (R74).
-/

namespace Sys2Proof

/-- What the decoder has seen when it rejects `w` under the name of a family (R70). -/
def InvalidWord.rejects : InvalidWord → Word → Prop
  | .family0, w => opOf w = 0x0#4 ∧ nnnOf w ≠ 0x0E0#12 ∧ nnnOf w ≠ 0x0EE#12
  | .family5, w => opOf w = 0x5#4 ∧ nOf w ≠ 0x0#4
  | .family8, w => opOf w = 0x8#4 ∧ nOf w ∈ [0x8#4, 0x9#4, 0xA#4, 0xB#4, 0xC#4, 0xD#4, 0xF#4]
  | .family9, w => opOf w = 0x9#4 ∧ nOf w ≠ 0x0#4
  | .familyE, w => opOf w = 0xE#4 ∧ kkOf w ∉ [0x9E#8, 0xA1#8]
  | .familyF, w =>
    opOf w = 0xF#4 ∧ kkOf w ∉ [0x07#8, 0x0A#8, 0x15#8, 0x18#8, 0x1E#8, 0x29#8, 0x33#8, 0x55#8, 0x65#8]
  | .truncated, _ => False

/-- What an answer of the decoder says of the word: it is the word of the instruction answered, or one its family
rejects. -/
def explains (w : Word) : Except InvalidWord Instr → Prop
  | .ok i => encode i = w
  | .error e => e.rejects w

theorem rebuild_nnn_of {w : Word} {o : BitVec 4} (hop : opOf w = o) : (o ++ nnnOf w : Word) = w := by
  rw [← hop, rebuild_nnn]

theorem rebuild_xkk_of {w : Word} {o : BitVec 4} (hop : opOf w = o) : (o ++ xOf w ++ kkOf w : Word) = w := by
  rw [← hop, rebuild_xkk]

theorem rebuild_x_of {w : Word} {o : BitVec 4} {kk : Byte} (hop : opOf w = o) (hkk : kkOf w = kk) :
    (o ++ xOf w ++ kk : Word) = w := by
  rw [← hkk, rebuild_xkk_of hop]

theorem rebuild_xyn_of {w : Word} {o : BitVec 4} (hop : opOf w = o) : (o ++ xOf w ++ yOf w ++ nOf w : Word) = w := by
  rw [← hop, rebuild_xyn]

theorem rebuild_xy_of {w : Word} {o : BitVec 4} {n : Nibble} (hop : opOf w = o) (hn : nOf w = n) :
    (o ++ xOf w ++ yOf w ++ n : Word) = w := by
  rw [← hn, rebuild_xyn_of hop]

/-! ### Each family's selector -/

theorem explains_family0 {w : Word} (hop : opOf w = 0x0#4) : explains w (decodeFamily0 w) := by
  have hw := rebuild_nnn_of hop
  unfold decodeFamily0
  split
  · next h => rw [h] at hw; exact hw
  · next h => rw [h] at hw; exact hw
  · next h1 h2 => exact ⟨hop, h1, h2⟩

theorem explains_family5 {w : Word} (hop : opOf w = 0x5#4) : explains w (decodeFamily5 w) := by
  unfold decodeFamily5
  split
  · next hn => exact rebuild_xy_of hop hn
  · next hn => exact ⟨hop, hn⟩

theorem explains_family9 {w : Word} (hop : opOf w = 0x9#4) : explains w (decodeFamily9 w) := by
  unfold decodeFamily9
  split
  · next hn => exact rebuild_xy_of hop hn
  · next hn => exact ⟨hop, hn⟩

/-- The seven selectors of family 8 that remain when the nine in use are ruled out (R68, R70). -/
theorem nibble_unused_by_family8 : ∀ n : Nibble, n ≠ 0x0 → n ≠ 0x1 → n ≠ 0x2 → n ≠ 0x3 → n ≠ 0x4 → n ≠ 0x5 →
    n ≠ 0x6 → n ≠ 0x7 → n ≠ 0xE → n ∈ [0x8#4, 0x9#4, 0xA#4, 0xB#4, 0xC#4, 0xD#4, 0xF#4] := by
  decide

theorem explains_family8 {w : Word} (hop : opOf w = 0x8#4) : explains w (decodeFamily8 w) := by
  unfold decodeFamily8
  split
  case h_10 h0 h1 h2 h3 h4 h5 h6 h7 hE => exact ⟨hop, nibble_unused_by_family8 _ h0 h1 h2 h3 h4 h5 h6 h7 hE⟩
  all_goals
    next hn => exact rebuild_xy_of hop hn

theorem explains_familyE {w : Word} (hop : opOf w = 0xE#4) : explains w (decodeFamilyE w) := by
  unfold decodeFamilyE
  split
  · next hkk => exact rebuild_x_of hop hkk
  · next hkk => exact rebuild_x_of hop hkk
  · next h1 h2 => exact ⟨hop, by simpa only [List.mem_pair, not_or] using And.intro h1 h2⟩

theorem explains_familyF {w : Word} (hop : opOf w = 0xF#4) : explains w (decodeFamilyF w) := by
  unfold decodeFamilyF
  split
  case h_10 h1 h2 h3 h4 h5 h6 h7 h8 h9 =>
    refine ⟨hop, ?_⟩
    simp only [List.mem_cons, List.not_mem_nil, or_false, not_or]
    exact ⟨h1, h2, h3, h4, h5, h6, h7, h8, h9⟩
  all_goals
    next hkk => exact rebuild_x_of hop hkk

/-- The last family nibble is the one that is none of the other fifteen. -/
theorem nibble_eq_F : ∀ o : BitVec 4, o ≠ 0x0 → o ≠ 0x1 → o ≠ 0x2 → o ≠ 0x3 → o ≠ 0x4 → o ≠ 0x5 → o ≠ 0x6 → o ≠ 0x7 →
    o ≠ 0x8 → o ≠ 0x9 → o ≠ 0xA → o ≠ 0xB → o ≠ 0xC → o ≠ 0xD → o ≠ 0xE → o = 0xF#4 := by
  bv_omega

/-- Everything the decoder can answer (R64): the instruction whose word was given, or a rejection with its reason. -/
theorem decode_explains (w : Word) : explains w (decode w) := by
  unfold decode
  split
  case h_1 hop => exact explains_family0 hop
  case h_6 hop => exact explains_family5 hop
  case h_9 hop => exact explains_family8 hop
  case h_10 hop => exact explains_family9 hop
  case h_15 hop => exact explains_familyE hop
  case h_16 h0 h1 h2 h3 h4 h5 h6 h7 h8 h9 hA hB hC hD hE =>
    exact explains_familyF (nibble_eq_F _ h0 h1 h2 h3 h4 h5 h6 h7 h8 h9 hA hB hC hD hE)
  case h_2 hop | h_3 hop | h_11 hop | h_12 hop => exact rebuild_nnn_of hop
  case h_14 hop => exact rebuild_xyn_of hop
  all_goals
    next hop => exact rebuild_xkk_of hop

theorem encode_of_decode_ok {w : Word} {i : Instr} (h : decode w = .ok i) : encode i = w := by
  have hw := decode_explains w
  rw [h] at hw
  exact hw

theorem rejects_of_decode_error {w : Word} {e : InvalidWord} (h : decode w = .error e) : e.rejects w := by
  have hw := decode_explains w
  rw [h] at hw
  exact hw

/-! ### The round trip (R74) -/

theorem decode_family8 (x y : Reg) (n : Nibble) :
    decode (0x8#4 ++ x ++ y ++ n) = decodeFamily8 (0x8#4 ++ x ++ y ++ n) :=
  decode_of_op8 (opOf_xyn 0x8#4 x y n)

theorem decode_familyF (x : Reg) (kk : Byte) : decode (0xF#4 ++ x ++ kk) = decodeFamilyF (0xF#4 ++ x ++ kk) :=
  decode_of_opF (opOf_xkk 0xF#4 x kk)

/-- One half of the round trip: the family nibble, then the selector, lead the decoder to the instruction encoded. -/
theorem decode_encode (i : Instr) : decode (encode i) = .ok i := by
  cases i with
  | cls => exact decode_cls
  | ret => rfl
  | jp a => exact decode_jp a
  | ldImm x kk => exact decode_ldImm x kk
  | addImm x kk => exact decode_addImm x kk
  | call a | ldI a | jpV0 a =>
    simp only [encode, decode, opOf_nnn, nnnOf_nnn]
  | seImm x kk | sneImm x kk | rnd x kk =>
    simp only [encode, decode, opOf_xkk, xOf_xkk, kkOf_xkk]
  | drw x y n => simp only [encode, decode, opOf_xyn, xOf_xyn, yOf_xyn, nOf_xyn]
  | seReg x y => simp only [encode, decode, decodeFamily5, opOf_xyn, xOf_xyn, yOf_xyn, nOf_xyn]
  | sneReg x y => simp only [encode, decode, decodeFamily9, opOf_xyn, xOf_xyn, yOf_xyn, nOf_xyn]
  | ldReg x y | or x y | and x y | xor x y | addReg x y | subReg x y | shr x y | subn x y | shl x y =>
    simp only [encode, decode_family8, decodeFamily8, xOf_xyn, yOf_xyn, nOf_xyn]
  | skp x | sknp x => simp only [encode, decode, decodeFamilyE, opOf_xkk, xOf_xkk, kkOf_xkk]
  | ldRegDt x | ldRegKey x | ldDtReg x | ldStReg x | addI x | ldFont x | ldBcd x | ldMemReg x | ldRegMem x =>
    simp only [encode, decode_familyF, decodeFamilyF, xOf_xkk, kkOf_xkk]

/-- Settles O9: the one half runs the decoder on an encoded instruction, the other reads it backwards. -/
theorem decodeAndEncodeAreInverse : Obligations.DecodeAndEncodeAreInverse :=
  ⟨decode_encode, fun _ _ => encode_of_decode_ok⟩

/-! ### The invalid words (R70) -/

/-- The six groups of R70, in one disjunction. -/
def listedInvalid (w : Word) : Prop :=
  (opOf w = 0x0 ∧ w ≠ 0x00E0 ∧ w ≠ 0x00EE) ∨ (opOf w = 0x5 ∧ nOf w ≠ 0) ∨ (opOf w = 0x9 ∧ nOf w ≠ 0) ∨
    (opOf w = 0x8 ∧ nOf w ∈ [0x8#4, 0x9, 0xA, 0xB, 0xC, 0xD, 0xF]) ∨
    (opOf w = 0xE ∧ kkOf w ∉ [0x9E#8, 0xA1]) ∨
    (opOf w = 0xF ∧ kkOf w ∉ [0x07#8, 0x0A, 0x15, 0x18, 0x1E, 0x29, 0x33, 0x55, 0x65])

/-- A word rejected under any name is in R70's group of that name. -/
theorem listed_of_rejects {e : InvalidWord} {w : Word} (h : e.rejects w) : listedInvalid w := by
  cases e with
  | family0 =>
    obtain ⟨hop, hcls, hret⟩ := h
    refine .inl ⟨hop, ?_, ?_⟩
    · rintro rfl; exact hcls rfl
    · rintro rfl; exact hret rfl
  | family5 => exact .inr (.inl h)
  | family9 => exact .inr (.inr (.inl h))
  | family8 => exact .inr (.inr (.inr (.inl h)))
  | familyE => exact .inr (.inr (.inr (.inr (.inl h))))
  | familyF => exact .inr (.inr (.inr (.inr (.inr h))))
  | truncated => exact h.elim

/-- No encoded instruction is in one of R70's groups: its family nibble and selector are those of its row. -/
theorem encode_not_listed (i : Instr) : ¬listedInvalid (encode i) := by
  cases i with
  | cls | ret => unfold listedInvalid; decide
  | jp a | call a | ldI a | jpV0 a => simp [listedInvalid, encode, opOf_nnn]
  | seImm x kk | sneImm x kk | ldImm x kk | addImm x kk | rnd x kk => simp [listedInvalid, encode, opOf_xkk]
  | drw x y n => simp [listedInvalid, encode, opOf_xyn]
  | seReg x y | sneReg x y | ldReg x y | or x y | and x y | xor x y | addReg x y | subReg x y | shr x y | subn x y
  | shl x y => simp [listedInvalid, encode, opOf_xyn, nOf_xyn]
  | skp x | sknp x | ldRegDt x | ldRegKey x | ldDtReg x | ldStReg x | addI x | ldFont x | ldBcd x | ldMemReg x
  | ldRegMem x => simp [listedInvalid, encode, opOf_xkk, kkOf_xkk]

/-- Settles O11: a rejection puts the word in its family's group, and a word in a group is no instruction's. -/
theorem invalidWordsAreExactlyThoseListed : Obligations.InvalidWordsAreExactlyThoseListed := by
  intro w
  constructor
  · rintro ⟨e, he⟩
    exact listed_of_rejects (rejects_of_decode_error he)
  · intro hlisted
    cases hd : decode w with
    | error e => exact ⟨e, rfl⟩
    | ok i =>
      rw [← encode_of_decode_ok hd] at hlisted
      exact absurd hlisted (encode_not_listed i)

/-! ### The opcode map (R65) -/

theorem opOf_of_selects {m : Mnemonic} {o : BitVec 4} {w : Word}
    (h : (OpcodeRow.mk m 0xF000 (o ++ 0x000#12)).selects w = true) : opOf w = o := by
  have hmask := mask_nnn (opOf w) (nnnOf w)
  rw [rebuild_nnn] at hmask
  simpa only [opOf_nnn] using congrArg opOf (hmask.symm.trans (eq_of_beq h))

theorem opOf_nOf_of_selects {m : Mnemonic} {o : BitVec 4} {n : Nibble} {w : Word}
    (h : (OpcodeRow.mk m 0xF00F (o ++ 0x0#4 ++ 0x0#4 ++ n)).selects w = true) : opOf w = o ∧ nOf w = n := by
  have hmask := mask_xyn (opOf w) (xOf w) (yOf w) (nOf w)
  rw [rebuild_xyn] at hmask
  have heq := hmask.symm.trans (eq_of_beq h)
  exact ⟨by simpa only [opOf_xyn] using congrArg opOf heq, by simpa only [nOf_xyn] using congrArg nOf heq⟩

theorem opOf_kkOf_of_selects {m : Mnemonic} {o : BitVec 4} {kk : Byte} {w : Word}
    (h : (OpcodeRow.mk m 0xF0FF (o ++ 0x0#4 ++ kk)).selects w = true) : opOf w = o ∧ kkOf w = kk := by
  have hmask := mask_xkk (opOf w) (xOf w) (kkOf w)
  rw [rebuild_xkk] at hmask
  have heq := hmask.symm.trans (eq_of_beq h)
  exact ⟨by simpa only [opOf_xkk] using congrArg opOf heq, by simpa only [kkOf_xkk] using congrArg kkOf heq⟩

theorem eq_of_selects_exact {m : Mnemonic} {p w : Word} (h : (OpcodeRow.mk m 0xFFFF p).selects w = true) : p = w := by
  have hmask : w &&& 0xFFFF = w := BitVec.and_allOnes
  exact (hmask.symm.trans (eq_of_beq h)).symm

theorem rebuild_nnn_of_selects {m : Mnemonic} {o : BitVec 4} {w : Word}
    (h : (OpcodeRow.mk m 0xF000 (o ++ 0x000#12)).selects w = true) : (o ++ nnnOf w : Word) = w :=
  rebuild_nnn_of (opOf_of_selects h)

theorem rebuild_xkk_of_selects {m : Mnemonic} {o : BitVec 4} {w : Word}
    (h : (OpcodeRow.mk m 0xF000 (o ++ 0x000#12)).selects w = true) : (o ++ xOf w ++ kkOf w : Word) = w :=
  rebuild_xkk_of (opOf_of_selects h)

theorem rebuild_xy_of_selects {m : Mnemonic} {o : BitVec 4} {n : Nibble} {w : Word}
    (h : (OpcodeRow.mk m 0xF00F (o ++ 0x0#4 ++ 0x0#4 ++ n)).selects w = true) :
    (o ++ xOf w ++ yOf w ++ n : Word) = w :=
  rebuild_xy_of (opOf_nOf_of_selects h).1 (opOf_nOf_of_selects h).2

theorem rebuild_x_of_selects {m : Mnemonic} {o : BitVec 4} {kk : Byte} {w : Word}
    (h : (OpcodeRow.mk m 0xF0FF (o ++ 0x0#4 ++ kk)).selects w = true) : (o ++ xOf w ++ kk : Word) = w :=
  rebuild_x_of (opOf_kkOf_of_selects h).1 (opOf_kkOf_of_selects h).2

/-- A word is one of the row's instruction. -/
def OpcodeRow.owns (r : OpcodeRow) (w : Word) : Prop := ∃ i : Instr, encode i = w ∧ i.mnemonic = r.mnemonic

theorem owns_of_selects_wide {r : OpcodeRow} {w : Word} (hr : r ∈ opcodeMapWide) (h : r.selects w = true) :
    r.owns w := by
  simp only [opcodeMapWide, List.mem_cons, List.not_mem_nil, or_false] at hr
  rcases hr with rfl | rfl | rfl | rfl | rfl | rfl | rfl | rfl | rfl | rfl | rfl | rfl
  · exact ⟨.cls, eq_of_selects_exact h, rfl⟩
  · exact ⟨.ret, eq_of_selects_exact h, rfl⟩
  · exact ⟨.jp _, rebuild_nnn_of_selects (o := 0x1#4) h, rfl⟩
  · exact ⟨.call _, rebuild_nnn_of_selects (o := 0x2#4) h, rfl⟩
  · exact ⟨.seImm _ _, rebuild_xkk_of_selects (o := 0x3#4) h, rfl⟩
  · exact ⟨.sneImm _ _, rebuild_xkk_of_selects (o := 0x4#4) h, rfl⟩
  · exact ⟨.ldImm _ _, rebuild_xkk_of_selects (o := 0x6#4) h, rfl⟩
  · exact ⟨.addImm _ _, rebuild_xkk_of_selects (o := 0x7#4) h, rfl⟩
  · exact ⟨.ldI _, rebuild_nnn_of_selects (o := 0xA#4) h, rfl⟩
  · exact ⟨.jpV0 _, rebuild_nnn_of_selects (o := 0xB#4) h, rfl⟩
  · exact ⟨.rnd _ _, rebuild_xkk_of_selects (o := 0xC#4) h, rfl⟩
  · exact ⟨.drw _ _ _, rebuild_xyn_of (opOf_of_selects (o := 0xD#4) h), rfl⟩

theorem owns_of_selects_xy {r : OpcodeRow} {w : Word} (hr : r ∈ opcodeMapXY) (h : r.selects w = true) : r.owns w := by
  simp only [opcodeMapXY, List.mem_cons, List.not_mem_nil, or_false] at hr
  rcases hr with rfl | rfl | rfl | rfl | rfl | rfl | rfl | rfl | rfl | rfl | rfl
  · exact ⟨.seReg _ _, rebuild_xy_of_selects (o := 0x5#4) (n := 0x0#4) h, rfl⟩
  · exact ⟨.ldReg _ _, rebuild_xy_of_selects (o := 0x8#4) (n := 0x0#4) h, rfl⟩
  · exact ⟨.or _ _, rebuild_xy_of_selects (o := 0x8#4) (n := 0x1#4) h, rfl⟩
  · exact ⟨.and _ _, rebuild_xy_of_selects (o := 0x8#4) (n := 0x2#4) h, rfl⟩
  · exact ⟨.xor _ _, rebuild_xy_of_selects (o := 0x8#4) (n := 0x3#4) h, rfl⟩
  · exact ⟨.addReg _ _, rebuild_xy_of_selects (o := 0x8#4) (n := 0x4#4) h, rfl⟩
  · exact ⟨.subReg _ _, rebuild_xy_of_selects (o := 0x8#4) (n := 0x5#4) h, rfl⟩
  · exact ⟨.shr _ _, rebuild_xy_of_selects (o := 0x8#4) (n := 0x6#4) h, rfl⟩
  · exact ⟨.subn _ _, rebuild_xy_of_selects (o := 0x8#4) (n := 0x7#4) h, rfl⟩
  · exact ⟨.shl _ _, rebuild_xy_of_selects (o := 0x8#4) (n := 0xE#4) h, rfl⟩
  · exact ⟨.sneReg _ _, rebuild_xy_of_selects (o := 0x9#4) (n := 0x0#4) h, rfl⟩

theorem owns_of_selects_x {r : OpcodeRow} {w : Word} (hr : r ∈ opcodeMapX) (h : r.selects w = true) : r.owns w := by
  simp only [opcodeMapX, List.mem_cons, List.not_mem_nil, or_false] at hr
  rcases hr with rfl | rfl | rfl | rfl | rfl | rfl | rfl | rfl | rfl | rfl | rfl
  · exact ⟨.skp _, rebuild_x_of_selects (o := 0xE#4) (kk := 0x9E#8) h, rfl⟩
  · exact ⟨.sknp _, rebuild_x_of_selects (o := 0xE#4) (kk := 0xA1#8) h, rfl⟩
  · exact ⟨.ldRegDt _, rebuild_x_of_selects (o := 0xF#4) (kk := 0x07#8) h, rfl⟩
  · exact ⟨.ldRegKey _, rebuild_x_of_selects (o := 0xF#4) (kk := 0x0A#8) h, rfl⟩
  · exact ⟨.ldDtReg _, rebuild_x_of_selects (o := 0xF#4) (kk := 0x15#8) h, rfl⟩
  · exact ⟨.ldStReg _, rebuild_x_of_selects (o := 0xF#4) (kk := 0x18#8) h, rfl⟩
  · exact ⟨.addI _, rebuild_x_of_selects (o := 0xF#4) (kk := 0x1E#8) h, rfl⟩
  · exact ⟨.ldFont _, rebuild_x_of_selects (o := 0xF#4) (kk := 0x29#8) h, rfl⟩
  · exact ⟨.ldBcd _, rebuild_x_of_selects (o := 0xF#4) (kk := 0x33#8) h, rfl⟩
  · exact ⟨.ldMemReg _, rebuild_x_of_selects (o := 0xF#4) (kk := 0x55#8) h, rfl⟩
  · exact ⟨.ldRegMem _, rebuild_x_of_selects (o := 0xF#4) (kk := 0x65#8) h, rfl⟩

/-- A row of the map selects only words of its own instruction. -/
theorem owns_of_selects {r : OpcodeRow} {w : Word} (hr : r ∈ opcodeMap) (h : r.selects w = true) : r.owns w := by
  rcases List.mem_append.mp hr with hr | hr
  · rcases List.mem_append.mp hr with hr | hr
    · exact owns_of_selects_wide hr h
    · exact owns_of_selects_xy hr h
  · exact owns_of_selects_x hr h

/-- The row of its mnemonic selects an instruction's word. -/
theorem exists_row_selects_encode (i : Instr) :
    ∃ r ∈ opcodeMap, r.mnemonic = i.mnemonic ∧ r.selects (encode i) = true :=
  And.right <| show Laws.Encoding.Statement i from match i with
    | .cls => Laws.Encoding.cls
    | .ret => Laws.Encoding.ret
    | .jp a => Laws.Encoding.jp a
    | .call a => Laws.Encoding.call a
    | .seImm x kk => Laws.Encoding.seImm x kk
    | .sneImm x kk => Laws.Encoding.sneImm x kk
    | .seReg x y => Laws.Encoding.seReg x y
    | .ldImm x kk => Laws.Encoding.ldImm x kk
    | .addImm x kk => Laws.Encoding.addImm x kk
    | .ldReg x y => Laws.Encoding.ldReg x y
    | .or x y => Laws.Encoding.or x y
    | .and x y => Laws.Encoding.and x y
    | .xor x y => Laws.Encoding.xor x y
    | .addReg x y => Laws.Encoding.addReg x y
    | .subReg x y => Laws.Encoding.subReg x y
    | .shr x y => Laws.Encoding.shr x y
    | .subn x y => Laws.Encoding.subn x y
    | .shl x y => Laws.Encoding.shl x y
    | .sneReg x y => Laws.Encoding.sneReg x y
    | .ldI a => Laws.Encoding.ldI a
    | .jpV0 a => Laws.Encoding.jpV0 a
    | .rnd x kk => Laws.Encoding.rnd x kk
    | .drw x y n => Laws.Encoding.drw x y n
    | .skp x => Laws.Encoding.skp x
    | .sknp x => Laws.Encoding.sknp x
    | .ldRegDt x => Laws.Encoding.ldRegDt x
    | .ldRegKey x => Laws.Encoding.ldRegKey x
    | .ldDtReg x => Laws.Encoding.ldDtReg x
    | .ldStReg x => Laws.Encoding.ldStReg x
    | .addI x => Laws.Encoding.addI x
    | .ldFont x => Laws.Encoding.ldFont x
    | .ldBcd x => Laws.Encoding.ldBcd x
    | .ldMemReg x => Laws.Encoding.ldMemReg x
    | .ldRegMem x => Laws.Encoding.ldRegMem x

theorem opcodeMap_mnemonics_nodup : (opcodeMap.map OpcodeRow.mnemonic).Nodup := by decide

/-- A list without repetition whose elements are all `a`, and which has one, is `[a]`. -/
theorem eq_singleton_of_nodup {α : Type} {l : List α} {a : α} (hnd : l.Nodup) (ha : a ∈ l) (hall : ∀ b ∈ l, b = a) :
    l = [a] := by
  have hrep := List.eq_replicate_of_mem hall
  rw [hrep, List.nodup_replicate] at hnd
  have hpos := List.length_pos_of_mem ha
  rw [hrep, show l.length = 1 by omega]
  rfl

/-- Settles O10: a row selects only its own instruction's words, every instruction's row selects its word, and each
mnemonic has one row. -/
theorem decodeAgreesWithTheOpcodeMap : Obligations.DecodeAgreesWithTheOpcodeMap := by
  intro w
  constructor
  · intro i hi
    obtain rfl := encode_of_decode_ok hi
    obtain ⟨row, hrow, hmn, hsel⟩ := exists_row_selects_encode i
    refine eq_singleton_of_nodup ?_ ?_ ?_
    · exact opcodeMap_mnemonics_nodup.sublist (List.filter_sublist.map _)
    · exact List.mem_map.mpr ⟨row, List.mem_filter.mpr ⟨hrow, hsel⟩, hmn⟩
    · intro m hm
      obtain ⟨r, hr, rfl⟩ := List.mem_map.mp hm
      obtain ⟨hr, hsel⟩ := List.mem_filter.mp hr
      obtain ⟨j, hj, hjm⟩ := owns_of_selects hr hsel
      have hij : i = j := by simpa only [hj, decode_encode, Except.ok.injEq] using decode_encode j
      rw [← hjm, hij]
  · intro e he
    refine List.filter_eq_nil_iff.mpr fun r hr hsel => ?_
    obtain ⟨i, rfl, -⟩ := owns_of_selects hr hsel
    rw [decode_encode] at he
    exact absurd he (by simp)

/-- Settles O12: each word is the word of the instruction beside it, or is rejected by its family's selector. -/
theorem sampleWordsDecodeAsTheSpecSays : Obligations.SampleWordsDecodeAsTheSpecSays :=
  ⟨decode_encode .cls, decode_encode .ret, decode_encode (.jp 0xABC), decode_encode (.seImm 10 0x5C),
    decode_encode (.seReg 10 11), decode_encode (.shl 10 11), decode_encode (.drw 10 11 7), decode_encode (.sknp 10),
    decode_encode (.ldFont 10), rfl, rfl⟩

end Sys2Proof
end

section
/-!
PROOFS. 40_control_flow.md rule R76, said once for all instructions: an instruction either raises a fault, which changes
nothing but the latch, or has its effect. The proofs about every instruction go through `exec_cases`.
-/

namespace Sys2Proof.Machine

/-- The fault instruction `i` raises in state `s`, if it raises one (R130 to R134). -/
def faultOf (i : Instr) (s : State) : Option FaultCause :=
  match i with
  | .ret => if s.stackEmpty then some .stackUnderflow else none
  | .call _ => if s.stackFull then some .stackOverflow else none
  | .skp x | .sknp x => if 15 < (s.getV x).toNat then some (.keyRange (s.getV x)) else none
  | .drw _ _ n => (s.firstOob s.base n.toNat).map .memory
  | .ldBcd _ => (s.firstOob s.base 3).map .memory
  | .ldMemReg x | .ldRegMem x => (s.firstOob s.base (x.toNat + 1)).map .memory
  | _ => none

/-- The state instruction `i` leaves where it raises no fault: the advance and the effect of its rule. -/
def effect (i : Instr) (s : State) : State :=
  match i with
  | .cls => s.advance.emit .displayClear
  | .ret => s.advance.pop.jump s.advance.top
  | .jp nnn => s.advance.jump (addrOperand nnn)
  | .call nnn => (s.advance.push s.advance.pc).jump (addrOperand nnn)
  | .seImm x kk => s.advance.skipIf (s.getV x == kk)
  | .sneImm x kk => s.advance.skipIf (s.getV x != kk)
  | .seReg x y => s.advance.skipIf (s.getV x == s.getV y)
  | .ldImm x kk => s.advance.setV x kk
  | .addImm x kk => s.advance.setV x (s.getV x + kk)
  | .ldReg x y => s.advance.setV x (s.getV y)
  | .or x y => s.advance.setV x (s.getV x ||| s.getV y)
  | .and x y => s.advance.setV x (s.getV x &&& s.getV y)
  | .xor x y => s.advance.setV x (s.getV x ^^^ s.getV y)
  | .addReg x y => (s.advance.setV x (s.getV x + s.getV y)).setFlag (carryOut (s.getV x) (s.getV y))
  | .subReg x y => (s.advance.setV x (s.getV x - s.getV y)).setFlag (noBorrow (s.getV x) (s.getV y))
  | .shr x _ => (s.advance.setV x (s.getV x >>> 1)).setFlag (bitOutRight (s.getV x))
  | .subn x y => (s.advance.setV x (s.getV y - s.getV x)).setFlag (noBorrow (s.getV y) (s.getV x))
  | .shl x _ => (s.advance.setV x (s.getV x <<< 1)).setFlag (bitOutLeft (s.getV x))
  | .sneReg x y => s.advance.skipIf (s.getV x != s.getV y)
  | .ldI nnn => s.advance.setI (addrOperand nnn)
  | .jpV0 nnn => s.advance.jump (s.indexedTarget nnn)
  | .rnd x kk => s.advance.setV x (s.env.rand &&& kk)
  | .drw x y n =>
    (s.advance.emit (.displayDraw (s.getV x) (s.getV y) (s.bytesAt s.base n.toNat))).setFlag (collisionAnswer n s.env)
  | .skp x => s.advance.skipIf (s.keyHeld (s.getV x))
  | .sknp x => s.advance.skipIf (!s.keyHeld (s.getV x))
  | .ldRegDt x => s.advance.setV x s.dt
  | .ldRegKey x => { s.advance with wait := true, waitReg := x }
  | .ldDtReg x => s.advance.setDt (s.getV x)
  | .ldStReg x => s.advance.setSt (s.getV x)
  | .addI x =>
    if s.params.addISetsVF then (s.advance.setI (s.idx + s.wideV x)).setFlag (aboveMemory (s.idx + s.wideV x))
    else s.advance.setI (s.idx + s.wideV x)
  | .ldFont x => s.advance.setI (s.glyphAddr x)
  | .ldBcd x => s.advance.storeBytes s.base (bcdDigits (s.getV x))
  | .ldMemReg x => s.advance.storeBytes s.base (s.regsUpTo x)
  | .ldRegMem x => s.advance.loadRegs s.base x.toNat

/-- The state an instruction leaves: the fault it raises latched, or its effect. -/
def outcome (i : Instr) (s : State) : State :=
  match faultOf i s with
  | some c => s.latch c (some (encode i))
  | none => effect i s

theorem outcome_of_fault {i : Instr} {s : State} {c : FaultCause} (h : faultOf i s = some c) :
    outcome i s = s.latch c (some (encode i)) := by
  unfold outcome; rw [h]

theorem outcome_of_no_fault {i : Instr} {s : State} (h : faultOf i s = none) : outcome i s = effect i s := by
  unfold outcome; rw [h]

/-- An accessing instruction answers the outcome of a fault that is the failed access and an effect that is `k`. -/
theorem accessing_eq_outcome {i : Instr} {count : Nat} {s : State}
    (hf : faultOf i s = (s.firstOob s.base count).map .memory) :
    accessing i count s (effect i s) = .next (outcome i s) := by
  cases hx : s.firstOob s.base count with
  | none =>
    rw [hx] at hf
    rw [accessing_pass hx, outcome_of_no_fault hf]
  | some a =>
    rw [hx] at hf
    rw [accessing_fail hx, outcome_of_fault hf]

/-- An instruction that checks one condition answers the outcome of the fault it raises on that condition. -/
theorem checking_eq_outcome (i : Instr) (s : State) {p : Prop} [Decidable p] {c : FaultCause}
    (hf : faultOf i s = if p then some c else none) :
    (if p then raise i c s else .next (effect i s)) = .next (outcome i s) := by
  by_cases hp : p
  · rw [if_pos hp] at hf ⊢
    rw [outcome_of_fault hf]
    rfl
  · rw [if_neg hp] at hf ⊢
    rw [outcome_of_no_fault hf]

/-- Every instruction, in every state, answers its outcome (R76). -/
theorem exec_eq (i : Instr) (s : State) : exec i s = .next (outcome i s) := by
  cases i with
  | ret => exact checking_eq_outcome .ret s rfl
  | call nnn => exact checking_eq_outcome (.call nnn) s rfl
  | skp x => exact checking_eq_outcome (.skp x) s rfl
  | sknp x => exact checking_eq_outcome (.sknp x) s rfl
  | drw x y n | ldBcd x | ldMemReg x | ldRegMem x => exact accessing_eq_outcome rfl
  | _ => rfl

/-- Everything an instruction can do: raise a fault and change nothing else, or have its effect. -/
theorem exec_cases {i : Instr} {s t : State} (h : exec i s = .next t) :
    (∃ c, faultOf i s = some c ∧ t = s.latch c (some (encode i))) ∨ (faultOf i s = none ∧ t = effect i s) := by
  rw [exec_eq] at h
  cases h
  cases hf : faultOf i s with
  | some c => exact .inl ⟨c, rfl, outcome_of_fault hf⟩
  | none => exact .inr ⟨rfl, outcome_of_no_fault hf⟩

theorem exec_of_fault {i : Instr} {s : State} {c : FaultCause} (h : faultOf i s = some c) :
    exec i s = .next (s.latch c (some (encode i))) := by
  rw [exec_eq, outcome_of_fault h]

theorem exec_of_no_fault {i : Instr} {s : State} (h : faultOf i s = none) : exec i s = .next (effect i s) := by
  rw [exec_eq, outcome_of_no_fault h]

/-- No effect latches a fault: what the latch holds tells the two cases apart. -/
theorem effect_fault (i : Instr) (s : State) : (effect i s).fault = s.fault := by
  cases i with
  | addI x => simp only [effect]; split <;> rfl
  | ldBcd x | ldMemReg x => exact State.storeBytes_fault _ _ _
  | ldRegMem x => exact State.loadRegs_fault _ _ _
  | _ => rfl

theorem effect_params (i : Instr) (s : State) : (effect i s).params = s.params := by
  cases i with
  | addI x => simp only [effect]; split <;> rfl
  | ldBcd x | ldMemReg x => exact State.storeBytes_params _ _ _
  | ldRegMem x => exact State.loadRegs_params _ _ _
  | _ => rfl

/-- An instruction that latches a fault in a machine without one has raised it. -/
theorem exec_latches {i : Instr} {s t : State} {r : FaultRecord} (hs : s.fault = none) (h : exec i s = .next t)
    (hr : t.fault = some r) : ∃ c, faultOf i s = some c ∧ t = s.latch c (some (encode i)) := by
  obtain hfault | ⟨-, rfl⟩ := exec_cases h
  · exact hfault
  · rw [effect_fault, hs] at hr
    cases hr

end Sys2Proof.Machine
end

section
/-!
PROOFS. The invariant (Safety.lean): it holds at reset (10_state.md section 11), and every transition keeps it.
-/

namespace Sys2Proof.Machine

/-! ### Reset (R36, R155) -/

theorem State.boot_getV (p : Params) (r : Reg) : (State.boot p).getV r = 0 := Vector.getElem_replicate _

theorem State.boot_stack (p : Params) (j : Fin 16) : (State.boot p).stack[j] = 0 := Vector.getElem_replicate _

/-- Settles O1: every field of the booted machine is written out in its definition. -/
theorem resetLeavesTheStatedValues : Obligations.ResetLeavesTheStatedValues :=
  ⟨rfl, State.boot_getV Params.default, rfl, rfl, State.boot_stack Params.default, rfl, rfl, rfl, rfl, rfl, rfl, rfl,
    rfl, rfl, rfl⟩

/-- Settles O2: a Reset boots the machine again under its own parameters and keeps what is the environment's. -/
theorem resetEventResetsEveryPieceOfState : Obligations.ResetEventResetsEveryPieceOfState := fun s =>
  ⟨s.resetCore, rfl, rfl, State.boot_getV s.params, rfl, rfl, State.boot_stack s.params, rfl, rfl, rfl, rfl, rfl, rfl,
    rfl, rfl, rfl, rfl, rfl, rfl⟩

/-! ### What the clauses of the invariant look at -/

theorem State.depthOk_wrap {s : State} (h : s.params.stackPolicy = .wrap) : s.depthOk ↔ s.depth = 0 := by
  unfold State.depthOk; rw [h]

theorem State.depthOk_fault {s : State} (h : s.params.stackPolicy = .fault) :
    s.depthOk ↔ s.depth ≤ 16 ∧ s.sp.toNat = s.depth % 16 := by
  unfold State.depthOk; rw [h]

theorem State.depthOk_congr {s t : State} (hp : t.params = s.params) (hd : t.depth = s.depth) (hsp : t.sp = s.sp)
    (h : s.depthOk) : t.depthOk := by
  unfold State.depthOk at h ⊢
  rwa [hp, hd, hsp]

theorem State.faultOk_of_none {s : State} (h : s.fault = none) : s.faultOk := by
  intro r hr
  rw [h] at hr
  cases hr

/-- A state agrees with another in everything the clause on the latched fault reads. -/
structure SameFault (s t : State) : Prop where
  fault : t.fault = s.fault
  wait : t.wait = s.wait
  pc : t.pc = s.pc
  params : t.params = s.params
  depth : t.depth = s.depth
  regs : ∀ r, t.getV r = s.getV r

theorem FaultRecord.justified_congr {s t : State} (h : SameFault s t) {r : FaultRecord} (hr : r.justified s) :
    r.justified t := by
  unfold FaultRecord.justified at hr ⊢
  simpa only [h.params, h.depth, h.regs] using hr

theorem State.faultOk_congr {s t : State} (h : SameFault s t) (hs : s.faultOk) : t.faultOk := by
  intro r hr
  rw [h.fault] at hr
  obtain ⟨hwait, hpc, hjust⟩ := hs r hr
  exact ⟨h.wait.trans hwait, hpc.trans h.pc.symm, FaultRecord.justified_congr h hjust⟩

/-- Memory, parameters and the stack as they were, and a latch that is in order: enough for the invariant. -/
theorem State.Inv.of_same {s t : State} (h : s.Inv) (hmem : t.mem = s.mem) (hp : t.params = s.params)
    (hd : t.depth = s.depth) (hsp : t.sp = s.sp) (hf : t.faultOk) : t.Inv where
  mem := hmem ▸ h.mem
  params := hp ▸ h.params
  depth := State.depthOk_congr hp hd hsp h.depth
  fault := hf

/-! ### The events -/

theorem State.boot_inv {p : Params} (hp : Params.ok p) : (State.boot p).Inv where
  mem := hp.2
  params := hp
  depth := by
    cases hpol : p.stackPolicy with
    | wrap => exact (State.depthOk_wrap hpol).mpr rfl
    | fault => exact (State.depthOk_fault hpol).mpr ⟨Nat.zero_le _, rfl⟩
  fault := State.faultOk_of_none rfl

theorem Params.default_ok : Params.ok Params.default := by
  have hslot := Config.fontSlot.isLt
  have hbase : Config.fontBase.toNat + 80 ≤ 4096 := by
    unfold Config.fontBase
    rw [BitVec.toNat_ofNat]
    omega
  exact ⟨hbase, rfl⟩

/-- Settles O3: nothing is latched, nothing is on the stack, and memory is the image. -/
theorem bootMeetsTheInvariant : Obligations.BootMeetsTheInvariant :=
  ⟨fun _ hp => State.boot_inv hp, State.boot_inv Params.default_ok⟩

theorem State.resetCore_inv {s : State} (h : s.Inv) : s.resetCore.Inv :=
  (State.boot_inv h.params).of_same rfl rfl rfl rfl (State.faultOk_of_none rfl)

theorem State.tickTimers_inv {s : State} (h : s.Inv) : s.tickTimers.Inv :=
  h.of_same rfl rfl rfl rfl (State.faultOk_congr ⟨rfl, rfl, rfl, rfl, rfl, fun _ => rfl⟩ h.fault)

theorem State.withEnv_inv {s : State} (h : s.Inv) (env : Env) : ({ s with env := env } : State).Inv :=
  h.of_same rfl rfl rfl rfl (State.faultOk_congr ⟨rfl, rfl, rfl, rfl, rfl, fun _ => rfl⟩ h.fault)

theorem State.takeEvent_inv {s : State} (h : s.Inv) : s.takeEvent.Inv := by
  rw [State.takeEvent_eq]
  exact h.of_same rfl rfl rfl rfl (State.faultOk_congr ⟨rfl, rfl, rfl, rfl, rfl, fun _ => rfl⟩ h.fault)

theorem State.keyWait_inv {s : State} (h : s.Inv) (hf : s.fault = none) : s.keyWait.Inv := by
  cases hk : s.env.keyEvent with
  | none => rwa [State.keyWait_none hk]
  | some k =>
    rw [State.keyWait_some hk]
    exact h.of_same rfl rfl rfl rfl (State.faultOk_of_none hf)

/-! ### A raised fault is precise and justified (R135) -/

theorem State.latch_inv {s : State} (h : s.Inv) (hw : s.wait = false) {c : FaultCause} {w : Option Word}
    (hj : FaultRecord.justified { cause := c, pc := s.pc, word := w } s) : (s.latch c w).Inv := by
  refine h.of_same rfl rfl rfl rfl fun r hr => ?_
  cases hr
  exact ⟨hw, rfl, hj⟩

theorem State.stackFull_iff (s : State) : s.stackFull = true ↔ s.params.stackPolicy = .fault ∧ s.depth = 16 := by
  simp [State.stackFull, Config.stackDepth]

theorem State.stackEmpty_iff (s : State) : s.stackEmpty = true ↔ s.params.stackPolicy = .fault ∧ s.depth = 0 := by
  simp [State.stackEmpty]

/-- A failed access of an instruction that accesses memory is a justified cause. -/
theorem justified_of_access {i : Instr} {s : State} {count : Nat} {c : FaultCause} {pc : Word}
    (hi : i.mnemonic = .drw ∨ i.mnemonic = .ldBcd ∨ i.mnemonic = .ldMemReg ∨ i.mnemonic = .ldRegMem)
    (h : (s.firstOob s.base count).map FaultCause.memory = some c) :
    FaultRecord.justified { cause := c, pc := pc, word := some (encode i) } s := by
  obtain ⟨a, ha, rfl⟩ := Option.map_eq_some_iff.mp h
  obtain ⟨hpol, hlt, -⟩ := State.firstOob_some ha
  exact ⟨hpol, hlt, .inr ⟨i, rfl, hi⟩⟩

theorem justified_of_faultOf {i : Instr} {s : State} {c : FaultCause} (h : faultOf i s = some c) (pc : Word) :
    FaultRecord.justified { cause := c, pc := pc, word := some (encode i) } s := by
  cases i with
  | ret =>
    obtain ⟨hp, rfl⟩ := Option.ite_some_none_eq_some.mp h
    obtain ⟨hpol, hd⟩ := s.stackEmpty_iff.mp hp
    exact ⟨hpol, hd, rfl⟩
  | call nnn =>
    obtain ⟨hp, rfl⟩ := Option.ite_some_none_eq_some.mp h
    obtain ⟨hpol, hd⟩ := s.stackFull_iff.mp hp
    exact ⟨hpol, hd, nnn, rfl⟩
  | skp x =>
    obtain ⟨hp, rfl⟩ := Option.ite_some_none_eq_some.mp h
    exact ⟨hp, x, rfl, .inl rfl⟩
  | sknp x =>
    obtain ⟨hp, rfl⟩ := Option.ite_some_none_eq_some.mp h
    exact ⟨hp, x, rfl, .inr rfl⟩
  | drw x y n => exact justified_of_access (.inl rfl) h
  | ldBcd x => exact justified_of_access (.inr (.inl rfl)) h
  | ldMemReg x => exact justified_of_access (.inr (.inr (.inl rfl))) h
  | ldRegMem x => exact justified_of_access (.inr (.inr (.inr rfl))) h
  | _ => cases h

/-- Both bytes of a fetch are checked before anything is read (R42, R43). -/
theorem State.fetchWord_error {s : State} {a : Nat} (h : s.fetchWord = .error a) :
    s.firstOob s.pc.toNat 2 = some a := by
  unfold State.fetchWord at h
  split at h
  · next b hb => cases h; exact hb
  · cases h

theorem State.justified_of_fetch_error {s : State} {a : Nat} (h : s.fetchWord = .error a) {pc : Word} :
    FaultRecord.justified { cause := .memory a, pc := pc, word := none } s := by
  obtain ⟨hpol, hlt, -⟩ := State.firstOob_some (State.fetchWord_error h)
  exact ⟨hpol, hlt, .inl rfl⟩

/-! ### The effect of an instruction -/

theorem effect_mem_wf {s : State} (h : Memory.wf s.mem = true) (i : Instr) : Memory.wf (effect i s).mem = true := by
  cases i with
  | addI x => simp only [effect]; split <;> exact h
  | ldBcd x | ldMemReg x => exact State.storeBytes_wf (s := s.advance) h _ _
  | ldRegMem x => rwa [effect, State.loadRegs_mem]
  | _ => exact h

/-- Only `Call` and `Ret` touch the stack (R26). -/
theorem effect_stack {i : Instr} (hcall : i.mnemonic ≠ .call) (hret : i.mnemonic ≠ .ret) (s : State) :
    (effect i s).stack = s.stack ∧ (effect i s).sp = s.sp ∧ (effect i s).depth = s.depth := by
  cases i with
  | call nnn => exact absurd rfl hcall
  | ret => exact absurd rfl hret
  | addI x => simp only [effect]; split <;> exact ⟨rfl, rfl, rfl⟩
  | ldBcd x | ldMemReg x =>
    exact ⟨State.storeBytes_stack _ _ _, State.storeBytes_sp _ _ _, State.storeBytes_depth _ _ _⟩
  | ldRegMem x => exact ⟨State.loadRegs_stack _ _ _, State.loadRegs_sp _ _ _, State.loadRegs_depth _ _ _⟩
  | _ => exact ⟨rfl, rfl, rfl⟩

theorem State.push_depth_wrap {s : State} (h : s.params.stackPolicy = .wrap) (a : Word) :
    (s.push a).depth = s.depth := by
  rw [State.push_depth, h]

theorem State.push_depth_fault {s : State} (h : s.params.stackPolicy = .fault) (a : Word) :
    (s.push a).depth = s.depth + 1 := by
  rw [State.push_depth, h]

theorem State.pop_depth_wrap {s : State} (h : s.params.stackPolicy = .wrap) : s.pop.depth = s.depth := by
  rw [State.pop_depth, h]

theorem State.pop_depth_fault {s : State} (h : s.params.stackPolicy = .fault) : s.pop.depth = s.depth - 1 := by
  rw [State.pop_depth, h]

/-- A push keeps the counter in step with the pointer, unless the stack is full (R27). -/
theorem State.push_depthOk {s : State} (h : s.depthOk) (hfull : s.stackFull ≠ true) (a : Word) :
    (s.push a).depthOk := by
  cases hpol : s.params.stackPolicy with
  | wrap =>
    rw [State.depthOk_wrap hpol] at h
    rwa [State.depthOk_wrap (by exact hpol), State.push_depth_wrap hpol]
  | fault =>
    rw [State.depthOk_fault hpol] at h
    rw [State.depthOk_fault (by exact hpol), State.push_depth_fault hpol, State.push_sp, BitVec.toNat_add]
    have hne : s.depth ≠ 16 := fun hd => hfull (s.stackFull_iff.mpr ⟨hpol, hd⟩)
    have hone : (1 : BitVec 4).toNat = 1 := rfl
    omega

/-- A pop keeps the counter in step with the pointer, unless the stack is empty (R27). -/
theorem State.pop_depthOk {s : State} (h : s.depthOk) (hempty : s.stackEmpty ≠ true) : s.pop.depthOk := by
  cases hpol : s.params.stackPolicy with
  | wrap =>
    rw [State.depthOk_wrap hpol] at h
    rwa [State.depthOk_wrap (by exact hpol), State.pop_depth_wrap hpol]
  | fault =>
    rw [State.depthOk_fault hpol] at h
    rw [State.depthOk_fault (by exact hpol), State.pop_depth_fault hpol, State.pop_sp, BitVec.toNat_sub]
    have hne : s.depth ≠ 0 := fun hd => hempty (s.stackEmpty_iff.mpr ⟨hpol, hd⟩)
    have hone : (1 : BitVec 4).toNat = 1 := rfl
    omega

/-- An instruction that checks one condition and raises no fault has not met it. -/
theorem unmet_of_no_fault {p : Prop} [Decidable p] {c : FaultCause} (h : (if p then some c else none) = none) : ¬p :=
  fun hp => Option.some_ne_none c (ite_eq_right_iff.mp h hp)

theorem effect_depthOk {i : Instr} {s : State} (h : s.depthOk) (hno : faultOf i s = none) : (effect i s).depthOk := by
  by_cases hcall : i.mnemonic = .call
  · cases i with
    | call nnn =>
      have hfull : s.advance.stackFull ≠ true := unmet_of_no_fault hno
      exact State.depthOk_congr rfl rfl rfl (State.push_depthOk (s := s.advance) h hfull s.advance.pc)
    | _ => cases hcall
  · by_cases hret : i.mnemonic = .ret
    · cases i with
      | ret =>
        have hempty : s.advance.stackEmpty ≠ true := unmet_of_no_fault hno
        exact State.depthOk_congr rfl rfl rfl (State.pop_depthOk (s := s.advance) h hempty)
      | _ => cases hret
    · obtain ⟨-, hsp, hd⟩ := effect_stack hcall hret s
      exact State.depthOk_congr (effect_params i s) hd hsp h

/-! ### One transition -/

theorem exec_inv {i : Instr} {s t : State} (h : s.Inv) (hf : s.fault = none) (hw : s.wait = false)
    (he : exec i s = .next t) : t.Inv := by
  obtain ⟨c, hc, rfl⟩ | ⟨hno, rfl⟩ := exec_cases he
  · exact State.latch_inv h hw (justified_of_faultOf hc s.pc)
  · exact
      { mem := effect_mem_wf h.mem i
        params := (effect_params i s).symm ▸ h.params
        depth := effect_depthOk h.depth hno
        fault := State.faultOk_of_none ((effect_fault i s).trans hf) }

theorem fetchExecute_inv {s t : State} (h : s.Inv) (hf : s.fault = none) (hw : s.wait = false)
    (he : fetchExecute s = .next t) : t.Inv := by
  obtain ⟨a, ha, rfl⟩ | ⟨w, e, -, hdec, rfl⟩ | ⟨w, i, -, -, hi⟩ := fetchExecute_cases he
  · exact State.latch_inv h hw (State.justified_of_fetch_error ha)
  · exact State.latch_inv h hw ⟨w, e, rfl, hdec⟩
  · exact exec_inv h hf hw hi

theorem stepEvent_inv {env : Env} {s t : State} (h : s.Inv) (he : stepEvent env s = .next t) : t.Inv := by
  obtain ⟨-, rfl⟩ | ⟨hf, -, rfl⟩ | ⟨hf, hw, hx⟩ := stepEvent_cases he
  · exact State.withEnv_inv h env
  · exact State.keyWait_inv (State.withEnv_inv h env) hf
  · exact fetchExecute_inv (State.withEnv_inv h env) hf hw hx

/-- Settles O4: each of the three events keeps every clause; a `Step` through the two things an instruction can do. -/
theorem everyStepKeepsTheInvariant : Obligations.EveryStepKeepsTheInvariant := by
  intro s t h hstep
  obtain ⟨-, rfl⟩ | ⟨-, rfl⟩ | ⟨env, -, he⟩ := step_cases hstep
  · exact State.resetCore_inv (State.takeEvent_inv h)
  · exact State.tickTimers_inv (State.takeEvent_inv h)
  · exact stepEvent_inv (State.takeEvent_inv h) he

end Sys2Proof.Machine
end

section
/-!
PROOFS. The flag-writing arithmetic of 41_alu.md section 3, the register moves and logic of section 2.
-/

namespace Sys2Proof.Machine

/-! ### One register written, then the flag (R22) -/

/-- The frame of an instruction that writes `V[x]` and then VF (R22, R78). -/
theorem State.advance_setV_setFlag_frame (s : State) (x : Reg) (b : Byte) (f : Bool) :
    keepsRegs [x, VF] s ((s.advance.setV x b).setFlag f) ∧ ((s.advance.setV x b).setFlag f).pc = s.pc + 2 ∧
      sameButRegs s ((s.advance.setV x b).setFlag f) := by
  refine ⟨fun r hr => ?_, rfl, rfl⟩
  obtain ⟨hx, hvf⟩ : r ≠ x ∧ r ≠ VF := by simpa using hr
  rw [State.getV_setFlag, if_neg hvf, State.getV_setV, if_neg hx, State.advance_getV]

/-- The destination is not lost to the flag write, unless it is VF itself. -/
theorem State.getV_setFlag_setV {s : State} {x : Reg} (hx : x ≠ VF) (b : Byte) (f : Bool) :
    ((s.setV x b).setFlag f).getV x = b := by
  rw [State.getV_setFlag, if_neg hx, State.getV_setV_self]

theorem State.getV_VF_setFlag (s : State) (f : Bool) : (s.setFlag f).getV VF = flagByte f := by
  rw [State.getV_setFlag, if_pos rfl]

theorem flagByte_decide (p : Prop) [Decidable p] : flagByte (decide p) = if p then 1 else 0 := by
  unfold flagByte
  simp only [decide_eq_true_eq]
  rfl

/-- What the five arithmetic instructions share: an effect that advances, writes `V[x]` and then the flag. -/
theorem exec_flagged {i : Instr} {s : State} {x : Reg} {b : Byte} {p : Prop} [Decidable p]
    (he : exec i s = .next ((s.advance.setV x b).setFlag (decide p))) :
    ∃ t, exec i s = .next t ∧ (x ≠ VF → t.getV x = b) ∧ t.getV VF = (if p then 1 else 0) ∧
      keepsRegs [x, VF] s t ∧ t.pc = s.pc + 2 ∧ sameButRegs s t := by
  refine ⟨_, he, fun hx => State.getV_setFlag_setV hx b _, ?_, State.advance_setV_setFlag_frame s x b _⟩
  rw [State.getV_VF_setFlag, flagByte_decide]

/-- Settles O22: the carry is that of the old values, and the flag is written last. -/
theorem addRegSumsAndCarries : Obligations.AddRegSumsAndCarries := by
  intro x y s
  refine ⟨decode_encode (.addReg x y), ?_⟩
  obtain ⟨t, he, hx, hrest⟩ := exec_flagged (i := .addReg x y) (s := s) (x := x) (b := s.getV x + s.getV y)
    (p := 255 < (s.getV x).toNat + (s.getV y).toNat) rfl
  refine ⟨t, he, fun h => ?_, hrest⟩
  rw [hx h, BitVec.toNat_add]

theorem toNat_sub_byte (a b : Byte) : (a - b).toNat = (a.toNat + 256 - b.toNat) % 256 := by
  rw [BitVec.toNat_sub]
  have := b.isLt
  omega

/-- Settles O23: NOT borrow is that of the old values, and the flag is written last. -/
theorem subRegSubtractsAndFlagsNoBorrow : Obligations.SubRegSubtractsAndFlagsNoBorrow := by
  intro x y s
  refine ⟨decode_encode (.subReg x y), ?_⟩
  obtain ⟨t, he, hx, hrest⟩ := exec_flagged (i := .subReg x y) (s := s) (x := x) (b := s.getV x - s.getV y)
    (p := (s.getV y).toNat ≤ (s.getV x).toNat) rfl
  refine ⟨t, he, fun h => ?_, hrest⟩
  rw [hx h, toNat_sub_byte]

/-- Settles O25: the operands of O23 in the other order, still written to `V[x]`. -/
theorem subnSubtractsInReverse : Obligations.SubnSubtractsInReverse := by
  intro x y s
  refine ⟨decode_encode (.subn x y), ?_⟩
  obtain ⟨t, he, hx, hrest⟩ := exec_flagged (i := .subn x y) (s := s) (x := x) (b := s.getV y - s.getV x)
    (p := (s.getV x).toNat ≤ (s.getV y).toNat) rfl
  refine ⟨t, he, fun h => ?_, hrest⟩
  rw [hx h, toNat_sub_byte]

theorem bitOutRight_eq (a : Byte) : bitOutRight a = decide (a.toNat % 2 = 1) := by
  unfold bitOutRight
  simp only [BitVec.getLsbD, Nat.testBit_zero]

theorem bitOutLeft_eq (a : Byte) : bitOutLeft a = decide (128 ≤ a.toNat) := by
  have := BitVec.msb_eq_decide a
  simpa [BitVec.msb, BitVec.getMsbD, bitOutLeft] using this

/-- Settles O24: the effect does not mention `y`; the flag is the bit shifted out. -/
theorem shrShiftsRightIgnoringY : Obligations.ShrShiftsRightIgnoringY := by
  intro x y s
  refine ⟨decode_encode (.shr x y), ?_⟩
  have hexec : ∀ z, exec (.shr x z) s =
      .next ((s.advance.setV x (s.getV x >>> 1)).setFlag (decide ((s.getV x).toNat % 2 = 1))) := fun z => by
    rw [← bitOutRight_eq]; rfl
  obtain ⟨t, he, hx, hrest⟩ := exec_flagged (hexec y)
  refine ⟨t, he, fun z => (hexec z).trans ((hexec y).symm.trans he), fun h => ?_, hrest⟩
  rw [hx h, BitVec.toNat_ushiftRight, Nat.shiftRight_eq_div_pow, pow_one]

/-- Settles O26: the effect does not mention `y`; the flag is the bit shifted out. -/
theorem shlShiftsLeftIgnoringY : Obligations.ShlShiftsLeftIgnoringY := by
  intro x y s
  refine ⟨decode_encode (.shl x y), ?_⟩
  have hexec : ∀ z, exec (.shl x z) s =
      .next ((s.advance.setV x (s.getV x <<< 1)).setFlag (decide (128 ≤ (s.getV x).toNat))) := fun z => by
    rw [← bitOutLeft_eq]; rfl
  obtain ⟨t, he, hx, hrest⟩ := exec_flagged (hexec y)
  refine ⟨t, he, fun z => (hexec z).trans ((hexec y).symm.trans he), fun h => ?_, hrest⟩
  rw [hx h, BitVec.toNat_shiftLeft, Nat.shiftLeft_eq, pow_one, Nat.mul_comm]

/-! ### One register written (R24, R78) -/

/-- What the instructions that write `V[x]` and nothing else share. -/
theorem exec_sets {i : Instr} {s : State} {x : Reg} {b : Byte} (he : exec i s = .next (s.advance.setV x b)) :
    ∃ t, exec i s = .next t ∧ t.getV x = b ∧ keepsRegs [x] s t ∧ t.pc = s.pc + 2 ∧ sameButRegs s t :=
  ⟨_, he, State.getV_setV_self _ x b, State.advance_setV_frame s x b⟩

/-- As above, with the value written described bit by bit. -/
theorem exec_sets_bits {i : Instr} {s : State} {x : Reg} {b : Byte} {bit : Nat → Bool}
    (he : exec i s = .next (s.advance.setV x b)) (hb : ∀ j, b.getLsbD j = bit j) :
    ∃ t, exec i s = .next t ∧ (∀ j < 8, (t.getV x).getLsbD j = bit j) ∧ keepsRegs [x] s t ∧ t.pc = s.pc + 2 ∧
      sameButRegs s t := by
  obtain ⟨t, ht, hx, hrest⟩ := exec_sets he
  exact ⟨t, ht, fun j _ => by rw [hx, hb j], hrest⟩

/-- Settles O21: one register is written, with the operator applied to each pair of old bits. -/
theorem moveAndLogicWriteOnlyTheirDestination : Obligations.MoveAndLogicWriteOnlyTheirDestination := fun x y _ =>
  ⟨decode_encode (.ldReg x y), decode_encode (.or x y), decode_encode (.and x y), decode_encode (.xor x y),
    exec_sets rfl, exec_sets_bits rfl fun _ => BitVec.getLsbD_or, exec_sets_bits rfl fun _ => BitVec.getLsbD_and,
    exec_sets_bits rfl fun _ => BitVec.getLsbD_xor⟩

/-- Settles O37: the answer is masked with the immediate, whatever it is. -/
theorem rndMasksARandomByte : Obligations.RndMasksARandomByte := by
  intro x kk s
  have hbit : ∀ j, (s.env.rand &&& kk).getLsbD j = (kk.getLsbD j && s.env.rand.getLsbD j) := fun j => by
    rw [BitVec.getLsbD_and, Bool.and_comm]
  exact ⟨decode_encode (.rnd x kk), exec_sets_bits rfl hbit⟩

/-- Settles O34: each copies one value, after the advance. -/
theorem timerInstructionsMoveTimers : Obligations.TimerInstructionsMoveTimers := fun x _ =>
  ⟨decode_encode (.ldRegDt x), decode_encode (.ldDtReg x), decode_encode (.ldStReg x), exec_sets rfl, rfl, rfl⟩

end Sys2Proof.Machine
end

section
/-!
PROOFS. 40_control_flow.md: the skips, the calls, the indexed jump; 44_io.md section 2: the key skips and the key wait.
-/

namespace Sys2Proof.Machine

/-! ### Skips (R77) -/

/-- A skip after the advance writes PC only: two or four above the instruction's own address. -/
theorem State.advance_skipIf (s : State) (c : Bool) :
    s.advance.skipIf c = { s with pc := if c then s.pc + 4 else s.pc + 2 } := by
  have h4 : s.pc + 2 + 2 = s.pc + 4 := by rw [BitVec.add_assoc]; rfl
  unfold State.skipIf
  rw [State.advance_pc, h4]
  rfl

theorem State.advance_skipIf_beq {α : Type} [DecidableEq α] (s : State) (a b : α) :
    s.advance.skipIf (a == b) = { s with pc := if a = b then s.pc + 4 else s.pc + 2 } := by
  rw [State.advance_skipIf]
  simp only [beq_iff_eq]

theorem State.advance_skipIf_bne {α : Type} [DecidableEq α] (s : State) (a b : α) :
    s.advance.skipIf (a != b) = { s with pc := if a = b then s.pc + 2 else s.pc + 4 } := by
  rw [State.advance_skipIf]
  simp only [bne_iff_ne, ne_eq, ite_not]

theorem State.advance_skipIf_not (s : State) (c : Bool) :
    s.advance.skipIf (!c) = { s with pc := if c then s.pc + 2 else s.pc + 4 } := by
  rw [State.advance_skipIf]
  cases c <;> rfl

/-- Settles O18: each skip compares before it moves PC, and moves nothing else. -/
theorem registerSkipsCompareAndSkip : Obligations.RegisterSkipsCompareAndSkip := fun x y kk s =>
  ⟨decode_encode (.seImm x kk), decode_encode (.sneImm x kk), decode_encode (.seReg x y), decode_encode (.sneReg x y),
    congrArg _ (s.advance_skipIf_beq (s.getV x) kk), congrArg _ (s.advance_skipIf_bne (s.getV x) kk),
    congrArg _ (s.advance_skipIf_beq (s.getV x) (s.getV y)), congrArg _ (s.advance_skipIf_bne (s.getV x) (s.getV y))⟩

/-- Settles O39: the range check comes first, and a fault undoes the advance by never making it. -/
theorem keySkipsAskForTheKeyTheValueNames : Obligations.KeySkipsAskForTheKeyTheValueNames := by
  intro x s
  refine ⟨decode_encode (.skp x), decode_encode (.sknp x), fun hle => ⟨?_, ?_⟩, fun hgt => ⟨?_, ?_⟩⟩
  · have hno : faultOf (.skp x) s = none := if_neg (by omega)
    exact (exec_of_no_fault hno).trans (congrArg _ (s.advance_skipIf (s.keyHeld (s.getV x))))
  · have hno : faultOf (.sknp x) s = none := if_neg (by omega)
    exact (exec_of_no_fault hno).trans (congrArg _ (s.advance_skipIf_not (s.keyHeld (s.getV x))))
  · exact exec_of_fault (i := .skp x) (if_pos hgt)
  · exact exec_of_fault (i := .sknp x) (if_pos hgt)

/-! ### Jumps and calls -/

/-- Settles O19: a 12-bit address and a byte sum below 2^16, so nothing wraps. -/
theorem jpV0AddsV0Unmasked : Obligations.JpV0AddsV0Unmasked := by
  intro nnn s
  refine ⟨decode_encode (.jpV0 nnn), _, rfl, ?_, rfl⟩
  have hsum : (s.indexedTarget nnn).toNat = nnn.toNat + (s.getV 0).toNat := by
    unfold State.indexedTarget addrOperand State.wideV
    rw [BitVec.toNat_add, BitVec.toNat_setWidth_of_le (by decide), BitVec.toNat_setWidth_of_le (by decide)]
    have := nnn.isLt
    have := (s.getV 0).isLt
    omega
  exact hsum

/-- A push writes the entry SP names, then moves SP; `DEPTH` counts under the policy `fault` only (R27). -/
theorem State.push_eq (s : State) (a : Word) :
    s.push a = { s with
      stack := s.stack.set s.sp.toNat a s.sp.isLt
      sp := s.sp + 1
      depth := if s.params.stackPolicy = .fault then s.depth + 1 else s.depth } := by
  unfold State.push
  cases s.params.stackPolicy <;> rfl

/-- A pop moves SP back and leaves the entry; `DEPTH` counts under the policy `fault` only (R27). -/
theorem State.pop_eq (s : State) :
    s.pop = { s with
      sp := s.sp - 1
      depth := if s.params.stackPolicy = .fault then s.depth - 1 else s.depth } := by
  unfold State.pop
  cases s.params.stackPolicy <;> rfl

theorem exec_call {s : State} (h : ¬(s.params.stackPolicy = .fault ∧ s.depth = 16)) (nnn : Addr12) :
    exec (.call nnn) s = .next ((s.advance.push (s.pc + 2)).jump (addrOperand nnn)) :=
  exec_of_no_fault (i := .call nnn) (if_neg (s.stackFull_iff.not.mpr h))

theorem exec_call_overflow {s : State} (h : s.params.stackPolicy = .fault ∧ s.depth = 16) (nnn : Addr12) :
    exec (.call nnn) s = .next (s.latch .stackOverflow (some (encode (.call nnn)))) :=
  exec_of_fault (i := .call nnn) (if_pos (s.stackFull_iff.mpr h))

theorem exec_ret {s : State} (h : ¬(s.params.stackPolicy = .fault ∧ s.depth = 0)) :
    exec .ret s = .next (s.advance.pop.jump s.top) :=
  exec_of_no_fault (i := .ret) (if_neg (s.stackEmpty_iff.not.mpr h))

/-- Settles O14: the one check decides between the two; the entry pushed is the advanced PC. -/
theorem callPushesTheAdvancedPcAndJumps : Obligations.CallPushesTheAdvancedPcAndJumps := by
  intro nnn s
  refine ⟨decode_encode (.call nnn), fun h => ?_, fun h => exec_call_overflow h nnn⟩
  rw [exec_call h, State.push_eq]
  rfl

/-- Settles O15: the one check decides between the two; the entry popped stays in the stack. -/
theorem retPopsPc : Obligations.RetPopsPc := by
  intro s
  refine ⟨decode_encode .ret, fun h => ?_, fun h => ?_⟩
  · rw [exec_ret h, State.pop_eq]
    rfl
  · exact exec_of_fault (i := .ret) (if_pos (s.stackEmpty_iff.mpr h))

/-- A pop right after a push undoes it but for the entry written. -/
theorem State.pop_push (s : State) (a : Word) : (s.push a).pop = { s with stack := (s.push a).stack } := by
  have hsp : s.sp + 1 - 1 = s.sp := BitVec.add_sub_cancel s.sp 1
  rw [State.pop_eq, State.push_eq]
  simp only [hsp]
  split <;> rfl

/-- The call's state with PC moved: a return is possible there, whatever the subroutine was. -/
theorem exec_ret_after_push (s : State) (a target here : Word) :
    exec .ret { (s.push a).jump target with pc := here } =
      .next { s with stack := (s.push a).stack, pc := a } := by
  have hnonempty : ¬(s.params.stackPolicy = .fault ∧ (s.push a).depth = 0) := by
    rintro ⟨hpol, hd⟩
    rw [State.push_depth_fault hpol] at hd
    omega
  refine (exec_ret (s := { (s.push a).jump target with pc := here }) hnonempty).trans ?_
  have hframe : ∀ b : Word, (({ (s.push a).jump target with pc := here } : State).advance.pop.jump b) =
      { (s.push a).pop with pc := b } := fun b => rfl
  rw [hframe, State.pop_push]
  exact congrArg (fun b => Host.Outcome.next { s with stack := (s.push a).stack, pc := b }) (s.top_push a)

/-- Settles O16: the push leaves its entry where the pop looks for it, so only the stack differs from before. -/
theorem callThenRetResumesAfterTheCall : Obligations.CallThenRetResumesAfterTheCall := fun nnn s here h =>
  ⟨_, _, exec_call h nnn, exec_ret_after_push s.advance (s.pc + 2) (addrOperand nnn) here, rfl, rfl⟩

/-! ### The stack as a whole (R27) -/

/-- The stack entry number `j`. -/
def State.slot (s : State) (j : BitVec 4) : Word := s.stack[j.toNat]'j.isLt

theorem State.top_eq_slot (s : State) : s.top = s.slot (s.sp - 1) := rfl

theorem State.slot_pop (s : State) (j : BitVec 4) : s.pop.slot j = s.slot j := rfl

theorem State.slot_push (s : State) (a : Word) (j : BitVec 4) :
    (s.push a).slot j = if j = s.sp then a else s.slot j := by
  unfold State.slot
  simp only [State.push_stack]
  by_cases h : j = s.sp
  · subst h; simp
  · have hne : s.sp.toNat ≠ j.toNat := fun e => h (BitVec.eq_of_toNat_eq e).symm
    rw [if_neg h, Vector.getElem_set_ne _ _ hne]

/-- Two states whose `n` entries below SP are the same. -/
def sameTop (n : Nat) (s t : State) : Prop :=
  t.sp = s.sp ∧ ∀ k < n, t.slot (s.sp - 1 - BitVec.ofNat 4 k) = s.slot (s.sp - 1 - BitVec.ofNat 4 k)

theorem sameTop_pop {n : Nat} {s t : State} (h : sameTop (n + 1) s t) : sameTop n s.pop t.pop := by
  obtain ⟨hsp, hslots⟩ := h
  refine ⟨by rw [State.pop_sp, State.pop_sp, hsp], fun k hk => ?_⟩
  have hidx : s.pop.sp - 1 - BitVec.ofNat 4 k = s.sp - 1 - BitVec.ofNat 4 (k + 1) := by
    rw [State.pop_sp]; bv_omega
  rw [hidx, State.slot_pop, State.slot_pop]
  exact hslots (k + 1) (by omega)

/-- What `n` pops give depends only on the `n` entries below SP. -/
theorem popAll_congr {n : Nat} {s t : State} (h : sameTop n s t) : (popAll n t).1 = (popAll n s).1 := by
  induction n generalizing s t with
  | zero => rfl
  | succ n ih =>
    have htop : t.top = s.top := by
      have h0 := h.2 0 (by omega)
      rwa [show BitVec.ofNat 4 0 = 0#4 from rfl, BitVec.sub_zero, ← State.top_eq_slot, ← h.1] at h0
    simp only [popAll]
    rw [htop, ih (sameTop_pop h)]

theorem popAll_sp (n : Nat) (s : State) : (popAll n s).2.sp = s.sp - BitVec.ofNat 4 n := by
  induction n generalizing s with
  | zero => simp [popAll]
  | succ n ih =>
    simp only [popAll]
    rw [ih, State.pop_sp]
    bv_omega

theorem pushAll_concat (vs : List Word) (a : Word) (s : State) : pushAll (vs ++ [a]) s = (pushAll vs s).push a := by
  unfold pushAll
  rw [List.foldl_append]
  rfl

theorem pushAll_sp (vs : List Word) (s : State) : (pushAll vs s).sp = s.sp + BitVec.ofNat 4 vs.length := by
  induction vs generalizing s with
  | nil => simp [pushAll]
  | cons v vs ih =>
    have hcons : pushAll (v :: vs) s = pushAll vs (s.push v) := rfl
    rw [hcons, ih, State.push_sp, List.length_cons]
    bv_omega

/-- A push and a pop leave the fifteen entries below SP as they were: only the entry SP names is overwritten. -/
theorem sameTop_push_pop {n : Nat} (hn : n ≤ 15) (s : State) (a : Word) : sameTop n s (s.push a).pop := by
  refine ⟨State.sp_push_pop s a, fun k hk => ?_⟩
  have hne : s.sp - 1 - BitVec.ofNat 4 k ≠ s.sp := by bv_omega
  rw [State.slot_pop, State.slot_push, if_neg hne]

/-- Pops give back what was pushed, latest first, as long as the stack's sixteen entries hold it. -/
theorem popAll_pushAll (vs : List Word) (s : State) (hlen : vs.length ≤ 16) :
    (popAll vs.length (pushAll vs s)).1 = vs.reverse := by
  induction vs using List.reverseRecOn with
  | nil => rfl
  | append_singleton vs a ih =>
    rw [List.length_append, List.length_singleton] at hlen ⊢
    rw [pushAll_concat, List.reverse_append]
    simp only [popAll]
    rw [State.top_push, popAll_congr (sameTop_push_pop (by omega) _ a), ih (by omega)]
    rfl

theorem popAll_pushAll_sp (vs : List Word) (s : State) : (popAll vs.length (pushAll vs s)).2.sp = s.sp := by
  rw [popAll_sp, pushAll_sp, BitVec.add_sub_cancel]

/-- Pushing changes the stack, SP and `DEPTH`, and nothing else. -/
theorem pushAll_eq (vs : List Word) (s : State) :
    pushAll vs s = { s with
      stack := (pushAll vs s).stack, sp := (pushAll vs s).sp, depth := (pushAll vs s).depth } := by
  induction vs generalizing s with
  | nil => rfl
  | cons v vs ih => exact (ih (s.push v)).trans rfl

theorem pushAll_depth_fault (vs : List Word) {s : State} (h : s.params.stackPolicy = .fault) :
    (pushAll vs s).depth = s.depth + vs.length := by
  induction vs generalizing s with
  | nil => rfl
  | cons v vs ih =>
    have hcons : pushAll (v :: vs) s = pushAll vs (s.push v) := rfl
    rw [hcons, ih (by exact h), State.push_depth_fault h, List.length_cons]
    omega

/-- Sixteen pushes bring SP back to where it was. -/
theorem pushAll_sp_of_length {vs : List Word} (h : vs.length = 16) (s : State) : (pushAll vs s).sp = s.sp := by
  rw [pushAll_sp, h]
  exact BitVec.add_zero _

/-- Settles O17: a push overwrites only the entry SP names, which the pops of the earlier pushes do not read; the
seventeenth push finds SP where the first did. -/
theorem pushesAndPopsAreLifo : Obligations.PushesAndPopsAreLifo := by
  refine ⟨fun vs s hlen _ => ⟨popAll_pushAll vs s hlen, popAll_pushAll_sp vs s⟩, ?_, ?_⟩
  · intro vs a s _ hlen hsp
    have hsp0 : (pushAll vs s).sp = 0 := (pushAll_sp_of_length hlen s).trans hsp
    rw [pushAll_concat]
    constructor
    · have hslot := State.slot_push (pushAll vs s) a 0
      rwa [hsp0, if_pos rfl] at hslot
    · rw [State.push_sp, hsp0]
      rfl
  · intro vs nnn s hpol hlen hd
    have hsame := pushAll_eq vs s
    have hdepth : (pushAll vs s).depth = 16 := by rw [pushAll_depth_fault vs hpol, hd, hlen]
    have hpc : (pushAll vs s).pc = s.pc := (congrArg State.pc hsame :)
    have hfault : (pushAll vs s).fault = s.fault := (congrArg State.fault hsame :)
    have hpol' : (pushAll vs s).params.stackPolicy = .fault := (congrArg (·.params.stackPolicy) hsame).trans hpol
    refine ⟨hdepth, _, exec_call_overflow ⟨hpol', hdepth⟩ nnn, ?_, rfl, pushAll_sp_of_length hlen s, hdepth, hpc, ?_⟩
    · rw [State.latch_fault, hpc]
      rfl
    · rw [← hfault]
      rfl

end Sys2Proof.Machine
end

section
/-!
PROOFS. 42_index_memory.md and the draw of 44_io.md: writing I, storing and loading through I.
-/

namespace Sys2Proof.Machine

/-! ### The index register -/

/-- Settles O27: the address field is read back whole and fits I. -/
theorem ldISetsTheIndexRegister : Obligations.LdISetsTheIndexRegister := fun nnn _ =>
  ⟨decode_encode (.ldI nnn), rfl, BitVec.toNat_setWidth_of_le (by decide)⟩

/-- Settles O40: the wait is armed after the advance; no register is named but in WAITREG. -/
theorem ldRegKeyArmsTheWait : Obligations.LdRegKeyArmsTheWait := fun x _ => ⟨decode_encode (.ldRegKey x), rfl⟩

theorem State.wideV_toNat (s : State) (x : Reg) : (s.wideV x).toNat = (s.getV x).toNat :=
  BitVec.toNat_setWidth_of_le (by decide)

theorem effect_addI_flagged {s : State} (h : s.params.addISetsVF = true) (x : Reg) :
    effect (.addI x) s = (s.advance.setI (s.idx + s.wideV x)).setFlag (aboveMemory (s.idx + s.wideV x)) :=
  if_pos h

theorem effect_addI_plain {s : State} (h : s.params.addISetsVF = false) (x : Reg) :
    effect (.addI x) s = s.advance.setI (s.idx + s.wideV x) :=
  if_neg (by rw [h]; exact Bool.false_ne_true)

theorem effect_addI_idx (s : State) (x : Reg) : (effect (.addI x) s).idx = s.idx + s.wideV x := by
  cases hset : s.params.addISetsVF with
  | false => rw [effect_addI_plain hset, State.setI_idx]
  | true => rw [effect_addI_flagged hset, State.setFlag_idx, State.setI_idx]

/-- Settles O28: I is the sum modulo 2^16 under both settings of `ADDI_SETS_VF`, which decides about VF alone. -/
theorem addIAddsToTheIndexRegister : Obligations.AddIAddsToTheIndexRegister := by
  intro x s
  refine ⟨decode_encode (.addI x), effect (.addI x) s, exec_of_no_fault rfl, ?_, fun hset => ?_, fun hset => ?_, ?_⟩
  · rw [effect_addI_idx, BitVec.toNat_add, State.wideV_toNat]
  · rw [effect_addI_plain hset]
    exact fun r _ => rfl
  · rw [effect_addI_flagged hset]
    refine ⟨?_, fun r hr => ?_⟩
    · rw [State.getV_VF_setFlag, aboveMemory, flagByte_decide, State.setFlag_idx, State.setI_idx]
    · rw [State.getV_setFlag, if_neg (List.mem_singleton.not.mp hr), State.setI_getV, State.advance_getV]
  · cases hset : s.params.addISetsVF with
    | false => rw [effect_addI_plain hset]; exact ⟨rfl, rfl⟩
    | true => rw [effect_addI_flagged hset]; exact ⟨rfl, rfl⟩

theorem State.glyphAddr_toNat (s : State) (x : Reg) :
    (s.glyphAddr x).toNat = (s.params.fontBase.toNat + 5 * (s.getV x).toNat) % 65536 := by
  have hmul : (BitVec.ofNat 16 Config.glyphBytes * s.wideV x).toNat = 5 * (s.getV x).toNat := by
    rw [BitVec.toNat_mul, State.wideV_toNat]
    have := (s.getV x).isLt
    exact Nat.mod_eq_of_lt (show 5 * (s.getV x).toNat < 65536 by omega)
  unfold State.glyphAddr
  rw [BitVec.toNat_add, hmul]

/-- Settles O29: five times a byte never wraps, and with FONT_BASE in memory the sum does not either. -/
theorem ldFontPointsAtAGlyph : Obligations.LdFontPointsAtAGlyph := by
  intro x s
  refine ⟨decode_encode (.ldFont x), s.advance.setI (s.glyphAddr x), rfl, s.glyphAddr_toNat x, fun hbase => ?_, rfl,
    rfl⟩
  have := (s.getV x).isLt
  exact (s.glyphAddr_toNat x).trans (Nat.mod_eq_of_lt (by omega))

/-! ### Stores (R45) -/

/-- A store after the advance changes memory and PC only. -/
theorem State.advance_storeBytes_frame (s : State) (base : Nat) (bs : List Byte) :
    (s.advance.storeBytes base bs).pc = s.pc + 2 ∧ sameButMem s (s.advance.storeBytes base bs) := by
  refine ⟨State.storeBytes_pc _ _ _, ?_⟩
  unfold sameButMem
  rw [State.storeBytes_eq]
  rfl

/-- Byte `k` of a block stored reads back. -/
theorem State.readByte_storeBytes_of_getElem? (s : State) (base : Nat) {bs : List Byte} (hlen : bs.length ≤ 4096)
    {k : Nat} {b : Byte} (hb : bs[k]? = some b) : (s.storeBytes base bs).readByte (base + k) = b := by
  obtain ⟨hk, rfl⟩ := List.getElem?_eq_some_iff.mp hb
  exact State.readByte_storeBytes s base bs hlen k hk

theorem State.regsUpTo_getElem? (s : State) {x r : Reg} (h : r.toNat ≤ x.toNat) :
    (s.regsUpTo x)[r.toNat]? = some (s.getV r) := by
  have hr : r.toNat < (s.regsUpTo x).length := by rw [State.regsUpTo_length]; omega
  rw [List.getElem?_eq_getElem hr, State.regsUpTo_getElem]

/-- A byte at none of the indices stored to reads as before the instruction. -/
theorem State.readByte_advance_storeBytes_of_ne (s : State) (base : Nat) (bs : List Byte) {a : Nat}
    (h : ∀ k < bs.length, memIndex a ≠ memIndex (base + k)) :
    (s.advance.storeBytes base bs).readByte a = s.readByte a :=
  (State.readByte_storeBytes_of_ne _ _ _ _ h).trans (s.advance_readByte a)

/-- The accesses of an instruction are allowed: the fault it could raise is not raised. -/
theorem no_access_fault {s : State} {count : Nat}
    (h : s.params.memPolicy = .mask ∨ count = 0 ∨ s.base + count - 1 ≤ 4095) :
    (s.firstOob s.base count).map FaultCause.memory = none := by
  rw [State.firstOob_passes h]
  rfl

/-- Settles O30: three bytes are stored, the digits of a byte. -/
theorem ldBcdStoresThreeDigits : Obligations.LdBcdStoresThreeDigits := by
  intro x s
  refine ⟨decode_encode (.ldBcd x), fun h => ?_⟩
  have hno : faultOf (.ldBcd x) s = none := no_access_fault (h.imp_right .inr)
  have hread : ∀ k d, (bcdDigits (s.getV x))[k]? = some d → (effect (.ldBcd x) s).readByte (s.base + k) = d :=
    fun k d hd => s.advance.readByte_storeBytes_of_getElem? s.base (bs := bcdDigits (s.getV x))
      (Nat.le_add_left 3 4093) hd
  have hv := (s.getV x).isLt
  refine ⟨_, exec_of_no_fault hno, ?_, ?_, ?_, fun a ha => ?_, s.advance_storeBytes_frame _ _⟩
  · exact (congrArg BitVec.toNat (hread 0 _ rfl)).trans (Nat.mod_eq_of_lt (by omega))
  · exact (congrArg BitVec.toNat (hread 1 _ rfl)).trans (Nat.mod_eq_of_lt (by omega))
  · exact (congrArg BitVec.toNat (hread 2 _ rfl)).trans (Nat.mod_eq_of_lt (by omega))
  · simp only [List.mem_cons, List.not_mem_nil, or_false, not_or] at ha
    obtain ⟨h0, h1, h2⟩ := ha
    refine s.readByte_advance_storeBytes_of_ne s.base _ fun k hk => ?_
    match k, hk with
    | 0, _ => exact h0
    | 1, _ => exact h1
    | 2, _ => exact h2

/-- Settles O31: the block stored is the registers up to `x` in order. -/
theorem ldMemRegStoresV0ToVx : Obligations.LdMemRegStoresV0ToVx := by
  intro x s
  refine ⟨decode_encode (.ldMemReg x), fun h => ?_⟩
  have hno : faultOf (.ldMemReg x) s = none := no_access_fault (h.imp_right .inr)
  have hlen := s.regsUpTo_length x
  have hx := x.isLt
  refine ⟨_, exec_of_no_fault hno, fun r hr => ?_, fun a ha => ?_, s.advance_storeBytes_frame _ _⟩
  · exact s.advance.readByte_storeBytes_of_getElem? s.base (by omega) (s.regsUpTo_getElem? hr)
  · refine s.readByte_advance_storeBytes_of_ne s.base _ fun k hk => ?_
    have hk16 : k < 16 := by omega
    have hkr : (BitVec.ofNat 4 k).toNat = k := Nat.mod_eq_of_lt hk16
    have hne := ha (BitVec.ofNat 4 k) (by omega)
    rwa [hkr] at hne

/-- Settles O32: each register up to `x` is loaded from its own byte, and memory is only read. -/
theorem ldRegMemLoadsV0ToVx : Obligations.LdRegMemLoadsV0ToVx := by
  intro x s
  refine ⟨decode_encode (.ldRegMem x), fun h => ?_⟩
  have hno : faultOf (.ldRegMem x) s = none := no_access_fault (h.imp_right .inr)
  refine ⟨_, exec_of_no_fault hno, State.getV_loadRegs s.advance s.base x.toNat, State.loadRegs_pc _ _ _, ?_⟩
  have hframe : effect (.ldRegMem x) s = { s.advance with v := (s.advance.loadRegs s.base x.toNat).v } := rfl
  rw [hframe]
  rfl

/-! ### The faulting forms (R42, R138) -/

/-- An instruction that accesses `count` bytes from I on, the last of them above 4095, changes nothing and reports the
lowest address above 4095. -/
theorem exec_of_access_fault {i : Instr} {s : State} {count : Nat} (hpol : s.params.memPolicy = .fault)
    (hi : faultOf i s = (s.firstOob s.base count).map .memory) (hc : 1 ≤ count) (h : 4095 < s.base + count - 1) :
    exec i s = .next (latched s (.memory (max s.base 4096)) (some (encode i))) := by
  rw [State.firstOob_fails hpol hc h] at hi
  exact exec_of_fault hi

/-- Settles O33: the check of each form covers its whole block, before anything is written. -/
theorem dataAccessesBeyondMemoryFault : Obligations.DataAccessesBeyondMemoryFault := fun x y n _ hpol =>
  ⟨fun h => exec_of_access_fault (i := .ldBcd x) hpol rfl (by omega) h,
    fun h => ⟨exec_of_access_fault (i := .ldMemReg x) hpol rfl (by omega) h,
      exec_of_access_fault (i := .ldRegMem x) hpol rfl (by omega) h⟩,
    fun hn h => exec_of_access_fault (i := .drw x y n) hpol rfl hn h⟩

/-! ### Drawing (R122) -/

theorem flagByte_collisionAnswer (n : Nibble) (env : Env) :
    flagByte (collisionAnswer n env) = if n ≠ 0 ∧ env.collided = true then 1 else 0 := by
  have hanswer : collisionAnswer n env = decide (n ≠ 0 ∧ env.collided = true) := by
    rw [Bool.eq_iff_iff, decide_eq_true_iff, collisionAnswer, Bool.and_eq_true, bne_iff_ne]
    rfl
  rw [hanswer, flagByte_decide]

/-- Settles O38: the bytes handed out are read from the old state, and VF is written last. -/
theorem drwHandsOverTheSpriteAndSetsVf : Obligations.DrwHandsOverTheSpriteAndSetsVf := by
  intro x y n s
  refine ⟨decode_encode (.drw x y n), fun h => ?_⟩
  have hallowed : s.params.memPolicy = .mask ∨ n.toNat = 0 ∨ s.base + n.toNat - 1 ≤ 4095 :=
    h.imp_right (Or.imp_left fun hn => by rw [hn]; rfl)
  have hno : faultOf (.drw x y n) s = none := no_access_fault hallowed
  refine ⟨_, s.bytesAt s.base n.toNat, exec_of_no_fault hno, s.bytesAt_length _ _, fun k hk => ?_, rfl, ?_, ?_,
    rfl, rfl⟩
  · have hk' : k < (s.bytesAt s.base n.toNat).length := by rwa [State.bytesAt_length]
    rw [List.getElem?_eq_getElem hk', State.bytesAt_getElem]
  · exact (State.getV_VF_setFlag _ _).trans (flagByte_collisionAnswer n s.env)
  · intro r hr
    exact (State.getV_setFlag _ r _).trans (if_neg (List.mem_singleton.not.mp hr))

end Sys2Proof.Machine
end

section
/-!
PROOFS. 40_control_flow.md rule R76 and 60_exceptions.md: the fetch, the events, the halt and the key wait.
-/

namespace Sys2Proof.Machine

/-! ### The fetch (R43) -/

theorem State.fetchWord_of_none {s : State} (h : s.firstOob s.pc.toNat 2 = none) :
    s.fetchWord = .ok (wordOfBytes (s.readByte s.pc.toNat) (s.readByte (s.pc.toNat + 1))) := by
  unfold State.fetchWord; rw [h]

theorem State.fetchWord_of_some {s : State} {a : Nat} (h : s.firstOob s.pc.toNat 2 = some a) :
    s.fetchWord = .error a := by
  unfold State.fetchWord; rw [h]

theorem wordOfBytes_toNat (hi lo : Byte) : (wordOfBytes hi lo).toNat = 256 * hi.toNat + lo.toNat := by
  unfold wordOfBytes
  rw [BitVec.toNat_append, ← Nat.shiftLeft_add_eq_or_of_lt lo.isLt, Nat.shiftLeft_eq]
  omega

/-- Settles O7: with the check passed the word is the two bytes, the first one high. -/
theorem fetchIsBigEndianThroughTheMask : Obligations.FetchIsBigEndianThroughTheMask := fun _ h =>
  ⟨_, State.fetchWord_of_none (State.firstOob_passes (h.imp_right .inr)), wordOfBytes_toNat _ _⟩

/-! ### One `Step` (R76) -/

theorem fetchExecute_of_ok {s : State} {w : Word} {i : Instr} (hw : s.fetchWord = .ok w) (hi : decode w = .ok i) :
    fetchExecute s = exec i s := by
  unfold fetchExecute; simp only [hw, hi]

theorem fetchExecute_of_invalid {s : State} {w : Word} {e : InvalidWord} (hw : s.fetchWord = .ok w)
    (he : decode w = .error e) : fetchExecute s = .next (s.latch .decode (some w)) := by
  unfold fetchExecute; simp only [hw, he]

theorem fetchExecute_of_error {s : State} {a : Nat} (h : s.fetchWord = .error a) :
    fetchExecute s = .next (s.latch (.memory a) none) := by
  unfold fetchExecute; simp only [h]

theorem stepEvent_halted {s : State} (h : s.fault.isSome = true) (env : Env) :
    stepEvent env s = .next { s with env := env } :=
  if_pos h

theorem stepEvent_waiting {s : State} (hf : s.fault = none) (hw : s.wait = true) (env : Env) :
    stepEvent env s = .next (State.keyWait { s with env := env }) := by
  have hrun : ¬s.fault.isSome = true := by simp [hf]
  exact (if_neg hrun).trans (if_pos hw)

/-- The events of `step` are those of `applyEvent` on the state with the event taken. -/
theorem step_of_nextEvent {s : State} {e : Event} (h : s.nextEvent = e) :
    step s = applyEvent e { s with agenda := s.takeEvent.agenda, draws := s.takeEvent.draws } := by
  unfold step
  rw [h, ← State.takeEvent_eq]

/-- Settles O6: the three branches of R76, and the agenda around them. -/
theorem stepRunsTheDecodedInstruction : Obligations.StepRunsTheDecodedInstruction := by
  refine ⟨fun env s h => stepEvent_halted h env, fun env s hf hw => stepEvent_waiting hf hw env,
    fun env s w hf hw hfetch => ⟨fun i hi => ?_, fun e he => ?_⟩, fun env s a hf hw hfetch => ?_,
    fun env s h => step_of_nextEvent h⟩
  · exact (stepEvent_run hf hw).trans (fetchExecute_of_ok (s := { s with env := env }) hfetch hi)
  · exact (stepEvent_run hf hw).trans (fetchExecute_of_invalid (s := { s with env := env }) hfetch he)
  · exact (stepEvent_run hf hw).trans (fetchExecute_of_error (s := { s with env := env }) hfetch)

theorem fetchExecute_next (s : State) : ∃ t, fetchExecute s = .next t := by
  cases hfetch : s.fetchWord with
  | error a => exact ⟨_, fetchExecute_of_error hfetch⟩
  | ok w =>
    cases hdec : decode w with
    | error e => exact ⟨_, fetchExecute_of_invalid hfetch hdec⟩
    | ok i => exact ⟨_, (fetchExecute_of_ok hfetch hdec).trans (exec_eq i s)⟩

theorem stepEvent_next (env : Env) (s : State) : ∃ t, stepEvent env s = .next t := by
  by_cases hf : s.fault.isSome = true
  · exact ⟨_, stepEvent_halted hf env⟩
  · have hf : s.fault = none := by simpa using hf
    cases hw : s.wait with
    | true => exact ⟨_, stepEvent_waiting hf hw env⟩
    | false =>
      rw [stepEvent_run hf hw]
      exact fetchExecute_next _

/-- Settles O5: no branch of a `Step` and no instruction answers anything but a next state. -/
theorem everyTransitionAnswersANextState : Obligations.EveryTransitionAnswersANextState := by
  refine ⟨fun s => ?_, fun i s => ⟨_, exec_eq i s⟩⟩
  unfold step
  cases s.nextEvent with
  | reset => exact ⟨_, rfl⟩
  | tick => exact ⟨_, rfl⟩
  | step env => exact stepEvent_next env s.takeEvent

/-! ### Timers (R118) -/

theorem countDown_toNat (b : Byte) : (countDown b).toNat = b.toNat - 1 := by
  unfold countDown
  split
  · next h => rw [h]; rfl
  · bv_omega

/-- Settles O35: both timers count down to a floor of zero, and the event is the next one whatever the agenda holds. -/
theorem tickCountsBothTimersDownToZero : Obligations.TickCountsBothTimersDownToZero := fun s =>
  ⟨⟨s.tickTimers, rfl, countDown_toNat s.dt, countDown_toNat s.st, rfl⟩, step_of_nextEvent⟩

/-! ### The key wait (R126) -/

/-- The key-wait step writes the register file and WAIT only. -/
theorem State.keyWait_eq (s : State) : s.keyWait = { s with v := s.keyWait.v, wait := s.keyWait.wait } := by
  cases hk : s.env.keyEvent with
  | none => rw [State.keyWait_none hk]
  | some k => rw [State.keyWait_some hk]; rfl

/-- Settles O41: the wait ends on the key and on nothing else. -/
theorem keyWaitEndsOnlyWithAKey : Obligations.KeyWaitEndsOnlyWithAKey := by
  intro env s hf hw
  refine ⟨fun hkey => ?_, fun k hkey => ?_⟩
  · rw [stepEvent_waiting hf hw, State.keyWait_none hkey]
  · have hkw := State.keyWait_some (s := { s with env := env }) hkey
    refine ⟨_, (stepEvent_waiting hf hw env).trans (congrArg _ hkw), ?_, fun r hr => ?_, rfl, rfl⟩
    · have hget := State.getV_setV_self s s.waitReg (k.setWidth 8)
      exact (congrArg BitVec.toNat hget).trans (BitVec.toNat_setWidth_of_le (by decide))
    · exact (State.getV_setV s s.waitReg r _).trans (if_neg (List.mem_singleton.not.mp hr))

/-! ### Faults (R131 to R138) -/

theorem faultOf_ne_decode (i : Instr) (s : State) : faultOf i s ≠ some .decode := by
  intro h
  obtain ⟨w, e, hw, he⟩ := justified_of_faultOf h s.pc
  obtain rfl : encode i = w := Option.some.inj hw
  rw [decode_encode] at he
  cases he

/-- A `Step` that runs and latches a fault: the record and the reason, one of three (R135, R136). -/
theorem stepEvent_latches {env : Env} {s t : State} {r : FaultRecord} (hf : s.fault = none)
    (h : stepEvent env s = .next t) (hr : t.fault = some r) :
    s.wait = false ∧ t = { s with env := env, fault := some r } ∧ r.pc = s.pc ∧
      ((∃ a, s.fetchWord = .error a ∧ r.cause = .memory a ∧ r.word = none) ∨
       (∃ w e, s.fetchWord = .ok w ∧ decode w = .error e ∧ r.cause = .decode ∧ r.word = some w) ∨
        ∃ w i, s.fetchWord = .ok w ∧ decode w = .ok i ∧ faultOf i { s with env := env } = some r.cause ∧
          r.word = some w) := by
  obtain ⟨hsome, -⟩ | ⟨-, hw, rfl⟩ | ⟨-, hw, hx⟩ := stepEvent_cases h
  · rw [hf] at hsome; cases hsome
  · rw [State.keyWait_eq] at hr
    exact absurd (hf.symm.trans hr) (by simp)
  · obtain ⟨a, ha, rfl⟩ | ⟨w, e, hfetch, hdec, rfl⟩ | ⟨w, i, hfetch, hdec, hi⟩ := fetchExecute_cases hx
    · cases hr
      exact ⟨hw, rfl, rfl, .inl ⟨a, ha, rfl, rfl⟩⟩
    · cases hr
      exact ⟨hw, rfl, rfl, .inr (.inl ⟨w, e, hfetch, hdec, rfl, rfl⟩)⟩
    · obtain ⟨c, hc, rfl⟩ := exec_latches (s := { s with env := env }) hf hi hr
      cases hr
      exact ⟨hw, rfl, rfl, .inr (.inr ⟨w, i, hfetch, hdec, hc, congrArg some (encode_of_decode_ok hdec)⟩)⟩

/-- Settles O45: each of the three ways to latch a fault changes the latch alone and records what was fetched. -/
theorem faultsArePrecise : Obligations.FaultsArePrecise := by
  intro env s t r hf h hr
  obtain ⟨-, ht, hpc, hwhy⟩ := stepEvent_latches hf h hr
  refine ⟨ht, hpc, ?_⟩
  have hok : ∀ w, s.fetchWord = .ok w → r.word = some w →
      (∀ w, s.fetchWord = .ok w → r.word = some w) ∧ (∀ a, s.fetchWord = .error a → r.word = none) := by
    intro w hw hsome
    rw [hw]
    exact ⟨fun _ h => Except.ok.inj h ▸ hsome, fun _ h => nomatch h⟩
  obtain ⟨a, ha, -, hnone⟩ | ⟨w, e, hw, -, -, hsome⟩ | ⟨w, i, hw, -, -, hsome⟩ := hwhy
  · rw [ha]
    exact ⟨fun _ h => (nomatch h), fun _ _ => hnone⟩
  · exact hok w hw hsome
  · exact hok w hw hsome

/-- Settles O42: the decoder decides; a valid word that faults does so for another reason. -/
theorem invalidWordsRaiseDecodeFault : Obligations.InvalidWordsRaiseDecodeFault := by
  intro env s w hf hw hfetch
  refine ⟨fun ⟨e, he⟩ => ?_, fun i t r hi h hr => ?_⟩
  · exact ⟨_, (stepEvent_run hf hw).trans (fetchExecute_of_invalid (s := { s with env := env }) hfetch he), rfl,
      congrArg (fun f => { s with fault := f }) hf.symm⟩
  · rw [stepEvent_run hf hw, fetchExecute_of_ok (s := { s with env := env }) hfetch hi] at h
    obtain ⟨c, hc, rfl⟩ := exec_latches (s := { s with env := env }) hf h hr
    cases hr
    rintro rfl
    exact faultOf_ne_decode i _ hc

/-- Settles O43: the fetch's own check fails first, so no word is read. -/
theorem fetchBeyondMemoryFaultsFirst : Obligations.FetchBeyondMemoryFaultsFirst := by
  intro env s hf hw hpol hpc
  have hfetch : ({ s with env := env } : State).fetchWord = .error (max s.pc.toNat 4096) :=
    State.fetchWord_of_some (State.firstOob_fails hpol (by decide) hpc)
  exact (stepEvent_run hf hw).trans (fetchExecute_of_error hfetch)

/-- Settles O44: a latched fault is looked at first, a Tick looks at none, a Reset boots. -/
theorem haltIsStickyUntilReset : Obligations.HaltIsStickyUntilReset := by
  intro s r hr
  have hhalt : s.fault.isSome = true := by rw [hr]; rfl
  refine ⟨stepEvent_halted hhalt, fun e t he h => ?_, _, rfl, rfl⟩
  cases e with
  | reset => exact absurd rfl he
  | tick => cases h; exact ⟨hr, rfl⟩
  | step env =>
    rw [applyEvent, stepEvent_halted hhalt] at h
    cases h
    exact ⟨hr, rfl⟩

/-- Under the default policies the only fault an instruction raises is that of a key skip. -/
theorem faultOf_default {i : Instr} {s : State} {c : FaultCause} (hp : Params.isDefault s.params)
    (h : faultOf i s = some c) : ∃ k : Byte, c = .keyRange k ∧ 15 < k.toNat := by
  obtain ⟨hmem, hstack, -⟩ := hp
  have hjust := justified_of_faultOf h s.pc
  cases c with
  | decode => exact absurd h (faultOf_ne_decode i s)
  | memory a =>
    have hfault : s.params.memPolicy = .fault := hjust.1
    rw [hmem] at hfault; cases hfault
  | stackOverflow | stackUnderflow =>
    have hfault : s.params.stackPolicy = .fault := hjust.1
    rw [hstack] at hfault; cases hfault
  | keyRange k => exact ⟨k, rfl, hjust.1⟩

/-- Settles O46: the justification of a memory or stack fault names a policy that the default is not. -/
theorem defaultParametersRaiseTwoFaultsOnly : Obligations.DefaultParametersRaiseTwoFaultsOnly := by
  intro env s t r hp hf h hr
  have hmask : s.params.memPolicy = .mask := hp.1
  obtain ⟨-, -, -, ⟨a, ha, -, -⟩ | ⟨w, e, -, -, hdec, -⟩ | ⟨w, i, -, -, hc, -⟩⟩ := stepEvent_latches hf h hr
  · have hpol := (State.firstOob_some (State.fetchWord_error ha)).1
    rw [hmask] at hpol
    cases hpol
  · exact .inl hdec
  · exact .inr (faultOf_default (s := { s with env := env }) hp hc)

/-! ### The loader (R157) -/

theorem State.fetchablePc_passes (s : State) : s.firstOob s.fetchablePc.toNat 2 = none := by
  unfold State.fetchablePc
  cases h : s.firstOob s.pc.toNat 2 with
  | none => exact h
  | some a => exact State.firstOob_passes (.inr (.inr (show Config.programBase.toNat + 2 - 1 ≤ 4095 by decide)))

/-- The access check looks at the parameters only. -/
theorem State.firstOob_congr {s t : State} (h : t.params = s.params) (a n : Nat) : t.firstOob a n = s.firstOob a n := by
  unfold State.firstOob
  rw [h]

/-- The first two bytes of a block stored at PC are the word fetched there. -/
theorem State.fetchWord_storeBytes {s : State} (h : s.firstOob s.pc.toNat 2 = none) {bs : List Byte}
    (hlen : bs.length ≤ 4096) {hi lo : Byte} (hhi : bs[0]? = some hi) (hlo : bs[1]? = some lo) :
    (s.storeBytes s.pc.toNat bs).fetchWord = .ok (wordOfBytes hi lo) := by
  have hpass := (State.firstOob_congr (s.storeBytes_params s.pc.toNat bs) s.pc.toNat 2).trans h
  rw [State.fetchWord_of_none (by rwa [State.storeBytes_pc]), State.storeBytes_pc,
    s.readByte_storeBytes_of_getElem? s.pc.toNat hlen hlo]
  exact congrArg (fun b => Except.ok (wordOfBytes b lo)) (s.readByte_storeBytes_of_getElem? s.pc.toNat hlen hhi)

theorem decode_of_decodeTableWord {w : Nat} {i : Instr} (h : decodeTableWord 16 w = some i) :
    decode (BitVec.ofNat 16 (w % 2 ^ 16)) = .ok i := by
  unfold decodeTableWord decodeBytes bytesOfWord at h
  simp only [wordOfBytes_bytes] at h
  cases hd : decode (BitVec.ofNat 16 (w % 2 ^ 16)) with
  | error e => rw [hd] at h; cases h
  | ok j => rw [hd] at h; cases h; rfl

/-- The machine made ready for a load: a `Step` comes next, and it fetches where a fetch can succeed (log entry 6). -/
def State.loadReady (s : State) : State := { s.stepNext with pc := s.fetchablePc, fault := none, wait := false }

theorem State.loadWord_eq (s : State) (w : Word) :
    s.loadWord w = s.loadReady.storeBytes s.loadReady.pc.toNat [highByte w, lowByte w] := rfl

theorem State.loadReady_passes (s : State) : s.loadReady.firstOob s.loadReady.pc.toNat 2 = none := by
  have hparams : s.loadReady.params = s.params := by
    unfold State.loadReady
    rw [s.stepNext_eq.2]
  exact (State.firstOob_congr hparams _ _).trans s.fetchablePc_passes

theorem State.loadWord_fetchWord (s : State) (w : Word) : (s.loadWord w).fetchWord = .ok w := by
  rw [State.loadWord_eq, State.fetchWord_storeBytes (bs := [highByte w, lowByte w]) s.loadReady_passes
    (Nat.le_add_left 2 4094) rfl rfl, wordOfBytes_bytes]

theorem State.loadWord_nextEvent (s : State) (w : Word) : ∃ env, (s.loadWord w).nextEvent = .step env := by
  obtain ⟨⟨env, henv⟩, -⟩ := s.stepNext_eq
  refine ⟨env, ?_⟩
  rw [State.loadWord_eq, State.storeBytes_eq]
  exact henv

/-- A transition that is a `Step`, of a machine that is neither halted nor waiting, runs the instruction fetched. -/
theorem step_eq_exec {s : State} {env : Env} {w : Word} {i : Instr} (henv : s.nextEvent = .step env)
    (hf : s.fault = none) (hw : s.wait = false) (hfetch : s.fetchWord = .ok w) (hdec : decode w = .ok i) :
    step s = exec i { s.takeEvent with env := env } := by
  have hf' : s.takeEvent.fault = none := by rw [State.takeEvent_eq]; exact hf
  have hw' : s.takeEvent.wait = false := by rw [State.takeEvent_eq]; exact hw
  have hfetch' : s.takeEvent.fetchWord = .ok w := by rw [State.takeEvent_eq]; exact hfetch
  unfold step
  rw [henv]
  exact (stepEvent_run hf' hw').trans (fetchExecute_of_ok (s := { s.takeEvent with env := env }) hfetch' hdec)

/-- Settles O8: the loaded machine is neither halted nor waiting, and the word it fetches is the one loaded. -/
theorem withFetchWordRunsThatWord : Obligations.WithFetchWordRunsThatWord := by
  intro s w i _ hdec
  obtain ⟨env, henv⟩ := s.loadWord_nextEvent (BitVec.ofNat 16 (w % 2 ^ 16))
  exact ⟨env, henv, step_eq_exec henv (State.storeBytes_fault _ _ _) (State.storeBytes_wait _ _ _)
    (s.loadWord_fetchWord _) (decode_of_decodeTableWord hdec)⟩

/-! ### Self-modifying code (R50) -/

/-- Settles O59: the stores of `LdMemReg` start at the address of the next fetch. -/
theorem aStoreIsSeenByTheNextFetch : Obligations.AStoreIsSeenByTheNextFetch := by
  intro x s hpol hidx hx
  have hno : faultOf (.ldMemReg x) s = none := no_access_fault (.inl hpol)
  have hbase : s.base = s.advance.pc.toNat := congrArg BitVec.toNat hidx
  have hpass : s.advance.firstOob s.advance.pc.toNat 2 = none := State.firstOob_passes (.inl hpol)
  have heffect : effect (.ldMemReg x) s = s.advance.storeBytes s.base (s.regsUpTo x) := rfl
  have hlen : (s.regsUpTo x).length ≤ 4096 := by
    rw [State.regsUpTo_length]
    have := x.isLt
    omega
  refine ⟨_, exec_of_no_fault hno, ?_⟩
  rw [heffect, hbase]
  exact State.fetchWord_storeBytes hpass hlen (s.regsUpTo_getElem? (r := 0) (Nat.zero_le _))
    (s.regsUpTo_getElem? (r := 1) hx)

end Sys2Proof.Machine
end

section
/-!
PROOFS. What the instructions leave unchanged (40_control_flow.md rule R78). Each statement is read off `exec_cases`: a
raised fault changes the latch alone, and one lemma per piece of state says which effects write it.
-/

namespace Sys2Proof.Machine

/-! ### The rest of the state, effect by effect -/

theorem effect_dt {i : Instr} (h : i.mnemonic ≠ .ldDtReg) (s : State) : (effect i s).dt = s.dt := by
  cases i with
  | ldDtReg x => exact absurd rfl h
  | addI x => simp only [effect]; split <;> rfl
  | ldBcd x | ldMemReg x => exact State.storeBytes_dt _ _ _
  | ldRegMem x => exact State.loadRegs_dt _ _ _
  | _ => rfl

theorem effect_st {i : Instr} (h : i.mnemonic ≠ .ldStReg) (s : State) : (effect i s).st = s.st := by
  cases i with
  | ldStReg x => exact absurd rfl h
  | addI x => simp only [effect]; split <;> rfl
  | ldBcd x | ldMemReg x => exact State.storeBytes_st _ _ _
  | ldRegMem x => exact State.loadRegs_st _ _ _
  | _ => rfl

theorem effect_idx {i : Instr} (hLdI : i.mnemonic ≠ .ldI) (hAddI : i.mnemonic ≠ .addI)
    (hLdFont : i.mnemonic ≠ .ldFont) (s : State) : (effect i s).idx = s.idx := by
  cases i with
  | ldI nnn => exact absurd rfl hLdI
  | addI x => exact absurd rfl hAddI
  | ldFont x => exact absurd rfl hLdFont
  | ldBcd x | ldMemReg x => exact State.storeBytes_idx _ _ _
  | ldRegMem x => exact State.loadRegs_idx _ _ _
  | _ => rfl

theorem effect_readByte {i : Instr} {s : State} {a : Nat} (h : memIndex a ∉ storeSpan i s) :
    (effect i s).readByte a = s.readByte a := by
  cases i with
  | addI x => simp only [effect]; split <;> rfl
  | ldBcd x =>
    exact s.readByte_advance_storeBytes_of_ne s.base _ fun k hk he =>
      h (List.mem_map.mpr ⟨k, List.mem_range.mpr hk, he.symm⟩)
  | ldMemReg x =>
    refine s.readByte_advance_storeBytes_of_ne s.base _ fun k hk he => ?_
    rw [State.regsUpTo_length] at hk
    exact h (List.mem_map.mpr ⟨k, List.mem_range.mpr hk, he.symm⟩)
  | ldRegMem x => exact State.loadRegs_readByte _ _ _ _
  | _ => rfl

theorem effect_out (i : Instr) (s : State) : (effect i s).out = s.out ∨ ∃ c, (effect i s).out = c :: s.out := by
  cases i with
  | cls | drw x y n => exact .inr ⟨_, rfl⟩
  | addI x => simp only [effect]; split <;> exact .inl rfl
  | ldBcd x | ldMemReg x => exact .inl (State.storeBytes_out _ _ _)
  | ldRegMem x => exact .inl (State.loadRegs_out _ _ _)
  | _ => exact .inl rfl

theorem effect_pc {i : Instr} (hjump : isJump i = false) (hskip : isSkip i = false) (s : State) :
    (effect i s).pc = s.pc + 2 := by
  cases i with
  | ret | jp nnn | call nnn | jpV0 nnn => cases hjump
  | seImm x kk | sneImm x kk | seReg x y | sneReg x y | skp x | sknp x => cases hskip
  | addI x => simp only [effect]; split <;> rfl
  | ldBcd x | ldMemReg x => exact State.storeBytes_pc _ _ _
  | ldRegMem x => exact State.loadRegs_pc _ _ _
  | _ => rfl

theorem State.advance_skipIf_pc (s : State) (c : Bool) :
    (s.advance.skipIf c).pc = s.pc + 2 ∨ (s.advance.skipIf c).pc = s.pc + 4 := by
  rw [State.advance_skipIf]
  cases c
  · exact .inl rfl
  · exact .inr rfl

theorem effect_pc_of_skip {i : Instr} (h : isSkip i = true) (s : State) :
    (effect i s).pc = s.pc + 2 ∨ (effect i s).pc = s.pc + 4 := by
  cases i with
  | seImm x kk | sneImm x kk | seReg x y | sneReg x y | skp x | sknp x => exact s.advance_skipIf_pc _
  | _ => cases h

/-- A register written by none of the effect's writes keeps its value. -/
theorem effect_getV {i : Instr} {s : State} {r : Reg} (hdest : r ∉ destRegs i)
    (hflag : writesFlag i = true ∨ (i.mnemonic = .addI ∧ s.params.addISetsVF = true) → r ≠ VF) :
    (effect i s).getV r = s.getV r := by
  cases i with
  | ldImm x kk | addImm x kk | ldReg x y | or x y | and x y | xor x y | rnd x kk | ldRegDt x =>
    exact (State.getV_setV _ _ _ _).trans (if_neg (List.mem_singleton.not.mp hdest))
  | addReg x y | subReg x y | shr x y | subn x y | shl x y =>
    have hne : r ∉ [x, VF] := by simpa using ⟨List.mem_singleton.not.mp hdest, hflag (.inl rfl)⟩
    exact (State.advance_setV_setFlag_frame s x _ _).1 r hne
  | drw x y n => exact (State.getV_setFlag _ r _).trans (if_neg (hflag (.inl rfl)))
  | addI x =>
    cases hset : s.params.addISetsVF with
    | false => rw [effect_addI_plain hset]; rfl
    | true =>
      rw [effect_addI_flagged hset]
      exact (State.getV_setFlag _ r _).trans (if_neg (hflag (.inr ⟨rfl, hset⟩)))
  | ldBcd x | ldMemReg x => exact State.storeBytes_getV _ _ _ _
  | ldRegMem x =>
    refine (State.getV_loadRegs s.advance s.base x.toNat r).trans (if_neg fun hle => hdest ?_)
    have hr : BitVec.ofNat 4 r.toNat = r := (BitVec.ofNat_toNat 4 r).trans (BitVec.setWidth_eq r)
    exact List.mem_map.mpr ⟨r.toNat, List.mem_range.mpr (by omega), hr⟩
  | _ => rfl

/-! ### Frames of the instructions -/

/-- Settles O47: a fault writes no byte, and an effect writes none outside its span. -/
theorem onlyTheStoringInstructionsWriteMemory : Obligations.OnlyTheStoringInstructionsWriteMemory := by
  intro i s t h a ha
  obtain ⟨c, -, rfl⟩ | ⟨-, rfl⟩ := exec_cases h
  · rfl
  · exact effect_readByte ha

/-- Settles O53: a fault writes no register, and an effect none but its destinations and the flag. -/
theorem instructionsWriteOnlyTheirDestinationRegisters :
    Obligations.InstructionsWriteOnlyTheirDestinationRegisters := by
  intro i s t r h hdest hflag
  obtain ⟨c, -, rfl⟩ | ⟨-, rfl⟩ := exec_cases h
  · rfl
  · exact effect_getV hdest hflag

theorem flagByte_cases (f : Bool) : flagByte f = 0 ∨ flagByte f = 1 := by
  cases f
  · exact .inl rfl
  · exact .inr rfl

/-- The six flag writers end with the flag write. -/
theorem effect_writesFlag {i : Instr} (h : writesFlag i = true) (s : State) :
    ∃ u f, effect i s = State.setFlag u f := by
  cases i with
  | addReg x y | subReg x y | shr x y | subn x y | shl x y | drw x y n => exact ⟨_, _, rfl⟩
  | _ => cases h

/-- Settles O52: the six end with the flag write; of the others only `AddI` could write VF, and by default it does
not. -/
theorem vfIsWrittenAsAFlagBySixInstructionsOnly : Obligations.VfIsWrittenAsAFlagBySixInstructionsOnly := by
  intro i s t hp _ h ht
  obtain ⟨-, -, hplain⟩ := hp
  obtain ⟨c, -, rfl⟩ | ⟨-, rfl⟩ := exec_cases h
  · cases ht
  · refine ⟨fun hw => ?_, fun hw hdest => effect_getV hdest ?_⟩
    · obtain ⟨u, f, hu⟩ := effect_writesFlag hw s
      rw [hu, State.getV_VF_setFlag]
      exact flagByte_cases f
    · rintro (htrue | ⟨-, hset⟩)
      · rw [hw] at htrue; cases htrue
      · rw [hplain] at hset; cases hset

/-- Settles O54: a latched fault tells that the advance was not made; without one the effect's PC counts. -/
theorem pcMovesAsEachKindOfInstructionSays : Obligations.PcMovesAsEachKindOfInstructionSays := by
  intro i s t hs h
  obtain ⟨c, -, rfl⟩ | ⟨-, rfl⟩ := exec_cases h
  · exact ⟨fun _ => rfl, fun hf => (nomatch hf), fun hf => (nomatch hf)⟩
  · exact ⟨fun hf => absurd ((effect_fault i s).trans hs) hf, fun _ hj hk => effect_pc hj hk s,
      fun _ hk => effect_pc_of_skip hk s⟩

/-- Settles O48: the stack pieces are in the frame of every effect but two, of a Tick, and of a waiting Step. -/
theorem onlyCallAndRetTouchTheStack : Obligations.OnlyCallAndRetTouchTheStack := by
  refine ⟨fun i s t hcall hret h => ?_, fun s t h => ?_, fun env s t hw h => ?_⟩
  · obtain ⟨c, -, rfl⟩ | ⟨-, rfl⟩ := exec_cases h
    · exact ⟨rfl, rfl, rfl⟩
    · exact effect_stack hcall hret s
  · cases h
    exact ⟨rfl, rfl, rfl⟩
  · obtain ⟨-, rfl⟩ | ⟨-, -, rfl⟩ | ⟨-, hrun, -⟩ := stepEvent_cases h
    · exact ⟨rfl, rfl, rfl⟩
    · rw [State.keyWait_eq]
      exact ⟨rfl, rfl, rfl⟩
    · rw [hw] at hrun; cases hrun

/-! ### Frames of a Step -/

/-- I, the timers, the commands handed out and the parameters are as they were. -/
structure KeepsIndexTimersOut (s t : State) : Prop where
  idx : t.idx = s.idx
  dt : t.dt = s.dt
  st : t.st = s.st
  out : t.out = s.out
  params : t.params = s.params

/-- A halted, a waiting and a faulting `Step` keep these (R126, R135, R137); any other ran an instruction, without a
fault. -/
theorem stepEvent_keeps_or_runs {env : Env} {s t : State} (h : stepEvent env s = .next t) :
    KeepsIndexTimersOut s t ∨ (s.fault = none ∧ s.wait = false ∧ t.fault = none ∧
      ∃ i, s.fetchWord = .ok (encode i) ∧ t = effect i { s with env := env }) := by
  obtain ⟨-, rfl⟩ | ⟨-, -, rfl⟩ | ⟨hf, hw, hx⟩ := stepEvent_cases h
  · exact .inl ⟨rfl, rfl, rfl, rfl, rfl⟩
  · rw [State.keyWait_eq]
    exact .inl ⟨rfl, rfl, rfl, rfl, rfl⟩
  · obtain ⟨a, -, rfl⟩ | ⟨w, e, -, -, rfl⟩ | ⟨w, i, hfetch, hdec, hi⟩ := fetchExecute_cases hx
    · exact .inl ⟨rfl, rfl, rfl, rfl, rfl⟩
    · exact .inl ⟨rfl, rfl, rfl, rfl, rfl⟩
    · obtain ⟨c, -, rfl⟩ | ⟨-, rfl⟩ := exec_cases hi
      · exact .inl ⟨rfl, rfl, rfl, rfl, rfl⟩
      · obtain rfl := encode_of_decode_ok hdec
        exact .inr ⟨hf, hw, (effect_fault i _).trans hf, i, hfetch, rfl⟩

/-- Settles O49: what `stepEvent_keeps_or_runs` says of a timer, and which effect writes it. -/
theorem onlyTheTimerInstructionsWriteTimers : Obligations.OnlyTheTimerInstructionsWriteTimers := by
  refine ⟨fun i s t h => ?_, fun env s t h => ⟨fun hne => ?_, fun hne => ?_⟩,
    fun s => ⟨_, rfl, countDown_toNat s.dt, countDown_toNat s.st⟩⟩
  · obtain ⟨c, -, rfl⟩ | ⟨-, rfl⟩ := exec_cases h
    · exact ⟨fun _ => rfl, fun _ => rfl⟩
    · exact ⟨fun hm => effect_dt hm s, fun hm => effect_st hm s⟩
  · obtain hkept | ⟨hf, hw, hft, i, hfetch, rfl⟩ := stepEvent_keeps_or_runs h
    · exact absurd hkept.dt hne
    have hm : i.mnemonic = .ldDtReg := by_contra fun hm => hne (effect_dt hm _)
    cases i with
    | ldDtReg x => exact ⟨hf, hw, hft, x, hfetch, rfl⟩
    | _ => cases hm
  · obtain hkept | ⟨hf, hw, hft, i, hfetch, rfl⟩ := stepEvent_keeps_or_runs h
    · exact absurd hkept.st hne
    have hm : i.mnemonic = .ldStReg := by_contra fun hm => hne (effect_st hm _)
    cases i with
    | ldStReg x => exact ⟨hf, hw, hft, x, hfetch, rfl⟩
    | _ => cases hm

/-- An effect that writes I is that of one of three instructions. -/
theorem mnemonic_of_effect_idx_ne {i : Instr} {s : State} (h : (effect i s).idx ≠ s.idx) :
    i.mnemonic = .ldI ∨ i.mnemonic = .addI ∨ i.mnemonic = .ldFont := by
  by_contra hm
  simp only [not_or] at hm
  obtain ⟨hLdI, hAddI, hLdFont⟩ := hm
  exact h (effect_idx hLdI hAddI hLdFont s)

/-- The address field of `LdI` has 12 bits, so it does not take I above 0x0FFF. -/
theorem mnemonic_of_effect_idx_crosses {i : Instr} {s : State} (hlow : s.idx.toNat ≤ 0x0FFF)
    (hhigh : 0x0FFF < (effect i s).idx.toNat) : i.mnemonic = .addI ∨ i.mnemonic = .ldFont := by
  have hne : (effect i s).idx ≠ s.idx := fun he => by rw [he] at hhigh; omega
  obtain hLdI | hm := mnemonic_of_effect_idx_ne hne
  · cases i with
    | ldI nnn =>
      have hidx : (effect (.ldI nnn) s).idx.toNat = nnn.toNat := BitVec.toNat_setWidth_of_le (by decide)
      have := nnn.isLt
      omega
    | _ => cases hLdI
  · exact hm

/-- Settles O51: what `stepEvent_keeps_or_runs` says of I, and which effect writes it or takes it above 0x0FFF. -/
theorem onlyThreeInstructionsWriteTheIndexRegister : Obligations.OnlyThreeInstructionsWriteTheIndexRegister := by
  refine ⟨fun i s t h => ?_, fun env s t h => ⟨fun hne => ?_, fun hlow hhigh => ?_⟩, fun s => ⟨_, rfl, rfl⟩⟩
  · obtain ⟨c, -, rfl⟩ | ⟨-, rfl⟩ := exec_cases h
    · exact ⟨fun _ _ _ => rfl, fun hlow hhigh => absurd hlow (Nat.not_le.mpr hhigh)⟩
    · exact ⟨fun hLdI hAddI hLdFont => effect_idx hLdI hAddI hLdFont s, mnemonic_of_effect_idx_crosses⟩
  · obtain hkept | ⟨hf, hw, hft, i, hfetch, rfl⟩ := stepEvent_keeps_or_runs h
    · exact absurd hkept.idx hne
    exact ⟨hf, hw, hft, i, hfetch, mnemonic_of_effect_idx_ne hne⟩
  · have hne : t.idx ≠ s.idx := fun he => by rw [he] at hhigh; omega
    obtain hkept | ⟨-, -, -, i, hfetch, rfl⟩ := stepEvent_keeps_or_runs h
    · exact absurd hkept.idx hne
    have hm := mnemonic_of_effect_idx_crosses (s := { s with env := env }) hlow hhigh
    cases i with
    | addI x => exact ⟨x, .inl hfetch⟩
    | ldFont x => exact ⟨x, .inr hfetch⟩
    | _ => simp [Instr.mnemonic] at hm

/-- Settles O56: the commands handed out are in the frame of every `Step` but one whose instruction emits. -/
theorem aStepHandsOutAtMostOneCommand : Obligations.AStepHandsOutAtMostOneCommand := by
  intro env s t _ h
  obtain hkept | ⟨-, -, hft, i, -, rfl⟩ := stepEvent_keeps_or_runs h
  · exact ⟨.inl hkept.out, fun _ => hkept.out⟩
  · exact ⟨effect_out i _, fun hf => absurd hft hf⟩

theorem stepEvent_params {env : Env} {s t : State} (h : stepEvent env s = .next t) : t.params = s.params := by
  obtain hkept | ⟨-, -, -, i, -, rfl⟩ := stepEvent_keeps_or_runs h
  · exact hkept.params
  · exact effect_params i _

/-- Settles O57: each event keeps the parameters, and so does taking it off the agenda. -/
theorem noEventChangesTheParameters : Obligations.NoEventChangesTheParameters := by
  intro s t h
  have htake : s.takeEvent.params = s.params := by rw [State.takeEvent_eq]
  obtain ⟨-, rfl⟩ | ⟨-, rfl⟩ | ⟨env, -, he⟩ := step_cases h
  · exact htake
  · exact htake
  · exact (stepEvent_params he).trans htake

/-! ### What the instructions do not read -/

theorem State.storeBytes_withSt (s : State) (b : Byte) (base : Nat) (bs : List Byte) :
    ({ s with st := b } : State).storeBytes base bs = { s.storeBytes base bs with st := b } := by
  induction bs generalizing s base with
  | nil => rfl
  | cons c bs ih => exact ih (s.writeByte base c) (base + 1)

theorem State.storeBytes_withEnv (s : State) (e : Env) (base : Nat) (bs : List Byte) :
    ({ s with env := e } : State).storeBytes base bs = { s.storeBytes base bs with env := e } := by
  induction bs generalizing s base with
  | nil => rfl
  | cons c bs ih => exact ih (s.writeByte base c) (base + 1)

theorem faultOf_withSt (i : Instr) (s : State) (b : Byte) : faultOf i { s with st := b } = faultOf i s := by
  cases i <;> rfl

theorem faultOf_withEnv (i : Instr) (s : State) (e : Env) : faultOf i { s with env := e } = faultOf i s := by
  cases i <;> rfl

theorem effect_withSt {i : Instr} (h : i.mnemonic ≠ .ldStReg) (s : State) (b : Byte) :
    effect i { s with st := b } = { effect i s with st := b } := by
  cases i with
  | ldStReg x => exact absurd rfl h
  | addI x =>
    cases hset : s.params.addISetsVF with
    | false => rw [effect_addI_plain hset, effect_addI_plain (by exact hset)]; rfl
    | true => rw [effect_addI_flagged hset, effect_addI_flagged (by exact hset)]; rfl
  | ldBcd x | ldMemReg x => exact State.storeBytes_withSt s.advance b _ _
  | _ => rfl

/-- The answers that the four asking instructions read: everything but the key event (R34, R125). -/
structure Env.SameAnswers (e f : Env) : Prop where
  keyDown : e.keyDown = f.keyDown
  rand : e.rand = f.rand
  collided : e.collided = f.collided

theorem effect_withEnv {i : Instr} {s : State} {e : Env} (h : asksEnv i = true → e.SameAnswers s.env) :
    effect i { s with env := e } = { effect i s with env := e } := by
  cases i with
  | rnd x kk =>
    simp only [effect, (h rfl).rand]
    rfl
  | drw x y n =>
    simp only [effect, collisionAnswer, (h rfl).collided]
    rfl
  | skp x | sknp x =>
    simp only [effect, State.keyHeld, (h rfl).keyDown]
    rfl
  | addI x =>
    cases hset : s.params.addISetsVF with
    | false => rw [effect_addI_plain hset, effect_addI_plain (by exact hset)]; rfl
    | true => rw [effect_addI_flagged hset, effect_addI_flagged (by exact hset)]; rfl
  | ldBcd x | ldMemReg x => exact State.storeBytes_withEnv s.advance e _ _
  | _ => rfl

/-- Settles O50: neither the fault an instruction raises nor its effect looks at ST. -/
theorem theSoundTimerIsNeverRead : Obligations.TheSoundTimerIsNeverRead := by
  intro i s t b h
  refine ⟨fun hm => ?_, fun hm => ?_⟩
  · obtain ⟨c, hc, rfl⟩ | ⟨hno, rfl⟩ := exec_cases h
    · exact exec_of_fault ((faultOf_withSt i s b).trans hc)
    · rw [exec_of_no_fault ((faultOf_withSt i s b).trans hno), effect_withSt hm]
  · cases i with
    | ldStReg x => exact h
    | _ => cases hm

theorem exec_withEnv {i : Instr} {s t : State} {e : Env} (he : asksEnv i = true → e.SameAnswers s.env)
    (h : exec i s = .next t) : exec i { s with env := e } = .next { t with env := e } := by
  obtain ⟨c, hc, rfl⟩ | ⟨hno, rfl⟩ := exec_cases h
  · exact exec_of_fault ((faultOf_withEnv i s e).trans hc)
  · rw [exec_of_no_fault ((faultOf_withEnv i s e).trans hno), effect_withEnv he]

/-- Settles O55: an instruction that asks nothing has the same fault and the same effect under any answers. -/
theorem onlyFourInstructionsAskTheEnvironment : Obligations.OnlyFourInstructionsAskTheEnvironment := by
  intro i s t e hask h
  exact exec_withEnv (fun htrue => absurd (hask.symm.trans htrue) Bool.false_ne_true) h

/-- Settles O58: the fetch and the decoder read no answer, and no instruction reads the key event. -/
theorem keyEventsOutsideAWaitAreIgnored : Obligations.KeyEventsOutsideAWaitAreIgnored := by
  intro env e s t hw h
  have hsame : Env.SameAnswers { env with keyEvent := e } env := ⟨rfl, rfl, rfl⟩
  obtain ⟨hhalt, rfl⟩ | ⟨-, hwait, -⟩ | ⟨hf, -, hx⟩ := stepEvent_cases h
  · exact stepEvent_halted hhalt _
  · rw [hw] at hwait; cases hwait
  · rw [stepEvent_run hf hw]
    obtain ⟨a, hfetch, rfl⟩ | ⟨w, e', hfetch, hdec, rfl⟩ | ⟨w, i, hfetch, hdec, hi⟩ := fetchExecute_cases hx
    · exact fetchExecute_of_error hfetch
    · exact fetchExecute_of_invalid hfetch hdec
    · exact (fetchExecute_of_ok (s := { s with env := { env with keyEvent := e } }) hfetch hdec).trans
        (exec_withEnv (s := { s with env := env }) (fun _ => hsame) hi)

end Sys2Proof.Machine
end
